-- ==== Sys2Proof/Word.lean ====
section
/-! DEFINITION. The value types of the WNG: the command word, the operand and register widths of 00_scope.md
R6 and R9, the channel index of 20_memory.md R25, and the four waveforms of 30_encoding.md R38. -/

namespace Sys2Proof

/-- The command word: 32 parallel bits, bit 0 the least significant (20_memory.md R26, 30_encoding.md R36). -/
abbrev Word := BitVec 32

/-- A channel's phase, `u16` (`PHASE_BITS`, 00_scope.md R6). -/
abbrev Phase := BitVec 16

/-- The wave phase `p8`, `u8` (`WAVE_PHASE_BITS`, 40_waveforms.md R47). -/
abbrev WavePhase := BitVec 8

/-- A pulse width, `u8` (`PW_BITS`). -/
abbrev PulseWidth := BitVec 8

/-- The bit pattern of a sample, `s8` in two's complement (`SAMPLE_BITS`, 20_memory.md R26). -/
abbrev Sample := BitVec 8

/-- The shared LFSR, `u16` (`LFSR_BITS`, 10_state.md R12). -/
abbrev Lfsr := BitVec 16

/-- A channel number: an index 0 to 3, all legal (20_memory.md R25, 10_state.md R19). -/
abbrev Channel := Fin 4

/-- The four waveforms, in the order of their selector codes (30_encoding.md R38). Every 2-bit code names one. -/
inductive Waveform where
  | tri
  | pulse
  | saw
  | noise
  deriving DecidableEq, Repr

end Sys2Proof
end

