-- ==== Sys2Proof/Syntax.lean ====
section
/-! DEFINITION. The commands of the WNG, one constructor per row of spec/opcode_table.json. -/

namespace Sys2Proof

/-- The seven command forms (30_encoding.md R39). Every operand is an unsigned value of its field's width
(30_encoding.md R37) and every value is legal (60_exceptions.md R72; log entry 16). -/
inductive Instr where
  /-- `NOP` (41_commands.md R59). -/
  | nop
  /-- `SAMPLE` (41_commands.md R60): the channel, its phase after the caller's advance, its pulse width. -/
  | sample (ch : Channel) (phase : Phase) (pw : PulseWidth)
  /-- `SEL.TRI` (41_commands.md R64). -/
  | selTri (ch : Channel)
  /-- `SEL.PULSE` (41_commands.md R65). -/
  | selPulse (ch : Channel)
  /-- `SEL.SAW` (41_commands.md R66). -/
  | selSaw (ch : Channel)
  /-- `SEL.NOISE` (41_commands.md R67). -/
  | selNoise (ch : Channel)
  /-- `CHRST` (41_commands.md R68). -/
  | chrst (ch : Channel)
  deriving DecidableEq, Repr

end Sys2Proof
end

