-- ==== Sys2Proof/Assembly.lean ====
section
/-! DEFINITION. The lines of the spec's assembler (30_encoding.md R44) and its pseudo-instructions (R45), with
their numbers as written: a number here may be out of its operand's range, and WellFormed.lean checks it. -/

namespace Sys2Proof

/-- One assembler line. -/
inductive AsmLine where
  /-- `NOP` -/
  | nop
  /-- `SAMPLE c<c>, <phase>, <pw>` -/
  | sample (c phase pw : Nat)
  /-- The pseudo-instruction `SAMPLE c<c>, <phase>`: no pulse width (30_encoding.md R45). -/
  | sampleNoWidth (c phase : Nat)
  /-- `SEL.TRI c<c>`, `SEL.PULSE c<c>`, `SEL.SAW c<c>`, `SEL.NOISE c<c>` -/
  | selForm (wave : Waveform) (c : Nat)
  /-- The pseudo-instruction `SEL c<c>, <wave>` (30_encoding.md R45). -/
  | sel (c : Nat) (wave : Waveform)
  /-- `CHRST c<c>` -/
  | chrst (c : Nat)
  /-- The pseudo-instruction `TICK <p0>, <p1>, <p2>, <p3> / <w0>, <w1>, <w2>, <w3>` (30_encoding.md R45). -/
  | tick (p0 p1 p2 p3 w0 w1 w2 w3 : Nat)
  /-- `.word <u32>`: the word as written, legal or not. -/
  | word (w : Nat)
  deriving DecidableEq, Repr

end Sys2Proof
end

