-- ==== Sys2Proof/Config.lean ====
section
/-! DEFINITION. The implementation parameters of 00_scope.md R6, each with the value the table gives it, and
the one open parameter, `LFSR_SEED` (00_scope.md R7; log entry 1). -/

namespace Sys2Proof.Config

/-- `NUM_CHANNELS` (00_scope.md R6). -/
abbrev numChannels : Nat := 4

/-- `CH_BITS`: log2 of `NUM_CHANNELS` (00_scope.md R6). -/
abbrev chBits : Nat := 2

/-- `PHASE_BITS` (00_scope.md R6). -/
abbrev phaseBits : Nat := 16

/-- `WAVE_PHASE_BITS` (00_scope.md R6). -/
abbrev wavePhaseBits : Nat := 8

/-- `PW_BITS` (00_scope.md R6). -/
abbrev pwBits : Nat := 8

/-- `LFSR_BITS` (00_scope.md R6). -/
abbrev lfsrBits : Nat := 16

/-- `SAMPLE_BITS` (00_scope.md R6). -/
abbrev sampleBits : Nat := 8

/-- `LFSR_TAPS`, the tap mask (00_scope.md R6). -/
def lfsrTaps : Lfsr := 0xB400#16

/-- `QUARTER`, a quarter of the 16-bit phase range (00_scope.md R6). -/
def quarter : Phase := 0x4000#16

/-- The lower level of the pulse wave (40_waveforms.md R49; a structural constant, 93 I4). -/
def levelLow : Int := -64

/-- The upper level of the pulse wave (40_waveforms.md R49; a structural constant, 93 I4). -/
def levelHigh : Int := 63

/-- The seeds a configuration may have are the 65535 non-zero `u16` values (00_scope.md R7), numbered from 0. -/
def seedOfIndex (i : Fin 65535) : Lfsr := BitVec.ofNat 16 (i.val + 1)

/-- The configuration with a given seed. 00_scope.md R7: "A model must refuse a configuration whose seed is
zero": there is none for 0. -/
def indexOfSeed? (seed : Lfsr) : Option (Fin 65535) :=
  if h : seed.toNat = 0 then none
  else some ⟨seed.toNat - 1, by have := seed.isLt; omega⟩

/-- Which of the non-zero seeds this WNG has: OPEN (00_scope.md R7, 92 D8), a free value that nothing can
evaluate, so that a claim holds for every non-zero seed (log entry 1). -/
opaque seedIndex : Fin 65535

/-- `LFSR_SEED` (00_scope.md R6, R7). -/
def lfsrSeed : Lfsr := seedOfIndex seedIndex

end Sys2Proof.Config
end

