-- ==== Sys2Proof/WellFormed.lean ====
section
/-! DEFINITION. Which operands are in range: one check per kind of operand, for the numbers of an assembler
line, and the same checks on a command, whose typed fields always pass (60_exceptions.md R72). -/

namespace Sys2Proof

/-- A channel is 0 to 3 (30_encoding.md R44). -/
def channelOk (c : Nat) : Bool := decide (c < Config.numChannels)

/-- A phase is a `u16` (30_encoding.md R44). -/
def phaseOk (p : Nat) : Bool := decide (p < 2 ^ Config.phaseBits)

/-- A pulse width is a `u8` (30_encoding.md R44). -/
def pulseWidthOk (w : Nat) : Bool := decide (w < 2 ^ Config.pwBits)

/-- A raw word is a `u32` (30_encoding.md R44). -/
def rawWordOk (w : Nat) : Bool := decide (w < 2 ^ 32)

/-- Every number of an assembler line is in its operand's range. -/
def AsmLine.wellFormed : AsmLine → Bool
  | .nop => true
  | .sample c phase pw => channelOk c && phaseOk phase && pulseWidthOk pw
  | .sampleNoWidth c phase => channelOk c && phaseOk phase
  | .selForm _ c => channelOk c
  | .sel c _ => channelOk c
  | .chrst c => channelOk c
  | .tick p0 p1 p2 p3 w0 w1 w2 w3 =>
    phaseOk p0 && phaseOk p1 && phaseOk p2 && phaseOk p3 &&
      pulseWidthOk w0 && pulseWidthOk w1 && pulseWidthOk w2 && pulseWidthOk w3
  | .word w => rawWordOk w

/-- Every operand of a command is in its field's range (30_encoding.md R37). The fields' types already say so
(`Laws.wellFormed_eq_true`): 60_exceptions.md R72, "Every operand value of SAMPLE, SEL and CHRST is legal". -/
def Instr.wellFormed : Instr → Bool
  | .nop => true
  | .sample ch phase pw => channelOk ch.val && phaseOk phase.toNat && pulseWidthOk pw.toNat
  | .selTri ch => channelOk ch.val
  | .selPulse ch => channelOk ch.val
  | .selSaw ch => channelOk ch.val
  | .selNoise ch => channelOk ch.val
  | .chrst ch => channelOk ch.val

end Sys2Proof
end

