-- ==== Sys2Proof/Decode.lean ====
section
/-! DEFINITION. The command word: its fields (30_encoding.md R36, R37), the total decoder (R40, R41), the
encoder (R44), and the opcode table with its match and mask words (R40, spec/opcode_table.json). -/

namespace Sys2Proof

/-! ### Fields -/

/-- `op = cmd[1:0]` (30_encoding.md R37). -/
def fieldOp (w : Word) : BitVec 2 := w.extractLsb' 0 2

/-- `rsv = cmd[3:2]` (30_encoding.md R37). -/
def fieldRsv (w : Word) : BitVec 2 := w.extractLsb' 2 2

/-- `ch = cmd[5:4]` (30_encoding.md R37). -/
def fieldCh (w : Word) : BitVec 2 := w.extractLsb' 4 2

/-- `wf = cmd[7:6]` (30_encoding.md R37). -/
def fieldWf (w : Word) : BitVec 2 := w.extractLsb' 6 2

/-- `pw = cmd[15:8]` (30_encoding.md R37). -/
def fieldPw (w : Word) : PulseWidth := w.extractLsb' 8 8

/-- `phase = cmd[31:16]` (30_encoding.md R37). -/
def fieldPhase (w : Word) : Phase := w.extractLsb' 16 16

/-- The channel a 2-bit field names: the index itself (30_encoding.md R37, "directly"). -/
def channelOfBits (b : BitVec 2) : Channel := ⟨b.toNat, b.isLt⟩

/-- The 2-bit field that names a channel. -/
def channelBits (c : Channel) : BitVec 2 := BitVec.ofNat 2 c.val

/-- The waveform a selector code names (30_encoding.md R38). -/
def waveformOfCode (b : BitVec 2) : Waveform :=
  match b.toNat with
  | 0 => .tri
  | 1 => .pulse
  | 2 => .saw
  | _ => .noise

/-- The selector code of a waveform (30_encoding.md R38). -/
def waveformCode : Waveform → BitVec 2
  | .tri => 0
  | .pulse => 1
  | .saw => 2
  | .noise => 3

/-- The SEL form that selects a waveform (30_encoding.md R39). -/
def selCommand (w : Waveform) (c : Channel) : Instr :=
  match w with
  | .tri => .selTri c
  | .pulse => .selPulse c
  | .saw => .selSaw c
  | .noise => .selNoise c

/-! ### Decoding -/

/-- Why a word is ILLEGAL: one name for each clause of 30_encoding.md R41. The names are the model's; the WNG
reports only that the word is illegal (60_exceptions.md R73; log entry 6). -/
inductive Illegal where
  /-- `rsv != 0`, in any operation. -/
  | reservedBits
  /-- `op = 00` and another bit is 1. -/
  | nopOperand
  /-- `op = 01` and `wf != 0`. -/
  | sampleWaveform
  /-- `op = 10` and `cmd[31:8] != 0`. -/
  | selOperand
  /-- `op = 11` and `cmd[31:6] != 0`. -/
  | chrstOperand
  deriving DecidableEq, Repr

/-- What a word decodes to: exactly one command, or ILLEGAL (30_encoding.md R40). -/
inductive Decoded where
  | command (i : Instr)
  | illegal (why : Illegal)
  deriving DecidableEq, Repr

/-- The decoder, total on 32-bit words (30_encoding.md R40). The reserved bits are checked before `op`. -/
def decode (w : Word) : Decoded :=
  if fieldRsv w ≠ 0#2 then .illegal .reservedBits
  else
    match (fieldOp w).toNat with
    | 0 => if w.extractLsb' 2 30 ≠ 0#30 then .illegal .nopOperand else .command .nop
    | 1 =>
      if fieldWf w ≠ 0#2 then .illegal .sampleWaveform
      else .command (.sample (channelOfBits (fieldCh w)) (fieldPhase w) (fieldPw w))
    | 2 =>
      if w.extractLsb' 8 24 ≠ 0#24 then .illegal .selOperand
      else .command (selCommand (waveformOfCode (fieldWf w)) (channelOfBits (fieldCh w)))
    | _ =>
      if w.extractLsb' 6 26 ≠ 0#26 then .illegal .chrstOperand
      else .command (.chrst (channelOfBits (fieldCh w)))

/-! ### Encoding -/

/-- The word `{phase, pw, wf, ch, 00, op}` (30_encoding.md R44): each field at its place in the format (R36). -/
def packWord (phase : Phase) (pw : PulseWidth) (wf ch op : BitVec 2) : Word :=
  phase.setWidth 32 <<< 16 ||| pw.setWidth 32 <<< 8 ||| wf.setWidth 32 <<< 6 ||| ch.setWidth 32 <<< 4 |||
    op.setWidth 32

/-- The word of a command (30_encoding.md R44). -/
def encode : Instr → Word
  | .nop => packWord 0 0 0 0 0
  | .sample ch phase pw => packWord phase pw 0 (channelBits ch) 1
  | .selTri ch => packWord 0 0 (waveformCode .tri) (channelBits ch) 2
  | .selPulse ch => packWord 0 0 (waveformCode .pulse) (channelBits ch) 2
  | .selSaw ch => packWord 0 0 (waveformCode .saw) (channelBits ch) 2
  | .selNoise ch => packWord 0 0 (waveformCode .noise) (channelBits ch) 2
  | .chrst ch => packWord 0 0 0 (channelBits ch) 3

/-! ### The opcode table -/

/-- One row of spec/opcode_table.json: a word is the row's command when `(cmd & mask) == match`. -/
structure OpcodeRow where
  mnemonic : String
  pattern : Word
  mask : Word
  build : Word → Instr

/-- A word matches a row (30_encoding.md R40). -/
def OpcodeRow.matches (r : OpcodeRow) (w : Word) : Bool := w &&& r.mask == r.pattern

/-- spec/opcode_table.json, row by row. -/
def opcodeTable : List OpcodeRow :=
  [ ⟨"NOP", 0x00000000#32, 0xFFFFFFFF#32, fun _ => .nop⟩,
    ⟨"SAMPLE", 0x00000001#32, 0x000000CF#32,
      fun w => .sample (channelOfBits (fieldCh w)) (fieldPhase w) (fieldPw w)⟩,
    ⟨"SEL.TRI", 0x00000002#32, 0xFFFFFFCF#32, fun w => .selTri (channelOfBits (fieldCh w))⟩,
    ⟨"SEL.PULSE", 0x00000042#32, 0xFFFFFFCF#32, fun w => .selPulse (channelOfBits (fieldCh w))⟩,
    ⟨"SEL.SAW", 0x00000082#32, 0xFFFFFFCF#32, fun w => .selSaw (channelOfBits (fieldCh w))⟩,
    ⟨"SEL.NOISE", 0x000000C2#32, 0xFFFFFFCF#32, fun w => .selNoise (channelOfBits (fieldCh w))⟩,
    ⟨"CHRST", 0x00000003#32, 0xFFFFFFCF#32, fun w => .chrst (channelOfBits (fieldCh w))⟩ ]

/-- The rows a word matches. -/
def matchingRows (w : Word) : List OpcodeRow := opcodeTable.filter (·.matches w)

/-! ### The table's numbering of an instruction's bits -/

/-- The command word whose low `nbits` bits are those of `w` and whose other bits are 0. The command is 32
parallel bits and bit 0 is the same bit in the table and at the port, so no byte order enters (20_memory.md
R26; log entry 7). -/
def tableWord (nbits w : Nat) : Word := BitVec.ofNat 32 (w % 2 ^ nbits)

/-- What the decoder reads from the instruction whose bits are `w`. No command is longer than 32 bits
(30_encoding.md R43; log entry 13). -/
def decodeTableWord (nbits w : Nat) : Option Instr :=
  if nbits ≤ 32 then
    match decode (tableWord nbits w) with
    | .command i => some i
    | .illegal _ => none
  else none

end Sys2Proof
end

