-- ==== Sys2Proof/Machine/State.lean ====
section
/-! DEFINITION. The state of the WNG (10_state.md R11), its registered response and its input ports
(30_encoding.md R34, R35), the state after reset (10_state.md R16), and the reasons a step can stop. -/

namespace Sys2Proof.Machine

/-- What the input ports carry at one rising edge of `clk` (30_encoding.md R34). -/
structure Edge where
  /-- `rst`, synchronous, active high. -/
  rst : Bool
  /-- `cmd_valid`. -/
  cmdValid : Bool
  /-- `cmd`. -/
  cmd : Word
  deriving DecidableEq, Repr

/-- The registered response: the `rsp_*` output ports (30_encoding.md R34, R46). -/
structure Response where
  /-- `rsp_valid` -/
  valid : Bool
  /-- `rsp_sample` -/
  sample : Sample
  /-- `rsp_phase` -/
  phase : Phase
  /-- `rsp_refresh` -/
  refresh : Bool
  /-- `rsp_err` -/
  err : Bool
  deriving DecidableEq, Repr

/-- The response ports in a cycle that follows no accepted command: all 0 (30_encoding.md R35). -/
def Response.quiet : Response := ⟨false, 0#8, 0#16, false, false⟩

/-- The state. Its first four fields are the record of 10_state.md R11. -/
structure State where
  /-- `lfsr`: the one LFSR all channels share (10_state.md R12). -/
  lfsr : Lfsr
  /-- `latch[0..3]`: each channel's last noise sample (10_state.md R13, R19). -/
  latch : Vector Sample 4
  /-- `wsel[0..3]`: each channel's waveform selector (10_state.md R14, R19). -/
  wsel : Vector Waveform 4
  /-- `err`: the sticky illegal-command flag, and the output port of that name (10_state.md R15). -/
  err : Bool
  /-- The response of the last edge (30_encoding.md R35; log entry 2). -/
  rsp : Response
  /-- The model's own field: what the input ports carry at the coming edges, the next first (log entry 3). -/
  inputs : List Edge
  deriving DecidableEq, Repr

/-- The state right after reset (10_state.md R16, 70_reset_and_hazards.md R83), with nothing pending at the
input ports. -/
def State.reset : State where
  lfsr := Config.lfsrSeed
  latch := Vector.replicate 4 0#8
  wsel := Vector.replicate 4 .tri
  err := false
  rsp := Response.quiet
  inputs := []

/-- All output ports of the WNG (30_encoding.md R34). -/
structure Outputs where
  rspValid : Bool
  rspSample : Sample
  rspPhase : Phase
  rspRefresh : Bool
  rspErr : Bool
  err : Bool
  deriving DecidableEq, Repr

/-- The exceptions of the WNG (60_exceptions.md R73). No step stops with one: R74 gives it an effect and the
WNG goes on, so the fault is recorded, in `State.err` (log entry 5). -/
inductive Fault where
  /-- `IllegalCommand`: raised by any word that 30_encoding.md R41 makes ILLEGAL. Recorded in `State.err`, where
  `State.fault?` reads it. Safe: R74's effect is modelled as it stands. -/
  | illegalCommand
  deriving DecidableEq, Repr

/-- Why the model gives no next state. No step of the WNG answers one of these. -/
inductive Refusal where
  /-- An instruction that has no meaning yet; raised by `exec` only, and by no arm of it now. Safe. -/
  | notModelled (mnemonic : String)
  /-- `powerOn`: a command was presented before the first reset, where no state exists (93 I5: "A command before
  the first reset is refused"). Safe: nothing is claimed of the hardware there. -/
  | commandBeforeReset
  /-- `powerOn`: the ports never carried a reset, so no state exists yet (70_reset_and_hazards.md R82). Safe:
  nothing is claimed of the hardware there. -/
  | noResetYet
  deriving DecidableEq, Repr

end Sys2Proof.Machine
end

