-- ==== Sys2Proof/Machine/Operands.lean ====
section
/-! DEFINITION. The operand forms: the wave phase (40_waveforms.md R47), the output phase of a refresh
(41_commands.md R63), and the sample's bit pattern (00_scope.md R9, 30_encoding.md R46). -/

namespace Sys2Proof.Machine

/-- The wave phase `p8 = phase[15:8]` (40_waveforms.md R47). -/
def wavePhase (phase : Phase) : WavePhase := phase.extractLsb' 8 8

/-- The output phase of a refresh, `phase -_16 QUARTER` (41_commands.md R60, R63). -/
def refreshedPhase (phase : Phase) : Phase := phase - Config.quarter

/-- `bits_8(i)`: an integer in [-128, 128) as its two's-complement pattern (00_scope.md R9). -/
def bits8 (i : Int) : Sample := BitVec.ofInt 8 i

/-- The edge that presents a command word (30_encoding.md R35). -/
def Edge.command (w : Word) : Edge := ⟨false, true, w⟩

/-- The edge at which the ports ask for nothing (30_encoding.md R35, `cmd_valid = 0`). -/
def Edge.idle : Edge := ⟨false, false, 0#32⟩

/-- The edge that resets (70_reset_and_hazards.md R83). -/
def Edge.reset : Edge := ⟨true, false, 0#32⟩

end Sys2Proof.Machine
end

