-- ==== Sys2Proof/Machine/Ops.lean ====
section
/-! DEFINITION. The named operations on the state: the channel files (10_state.md R19), the LFSR, the response,
the one exception (60_exceptions.md R74), the idle edge and the reset (30_encoding.md R35,
70_reset_and_hazards.md R83), and taking an edge from the input ports. There is no return from an exception:
60_exceptions.md R78 gives the WNG none. -/

namespace Sys2Proof.Machine

/-! ### The channel files and the LFSR -/

/-- Reads `latch[c]`. -/
def State.readLatch (s : State) (c : Channel) : Sample := s.latch.get c

/-- Reads `wsel[c]`. -/
def State.readWsel (s : State) (c : Channel) : Waveform := s.wsel.get c

/-- `latch[c] <- v` -/
def State.writeLatch (s : State) (c : Channel) (v : Sample) : State := { s with latch := s.latch.set c.val v }

/-- `wsel[c] <- w` -/
def State.writeWsel (s : State) (c : Channel) (w : Waveform) : State := { s with wsel := s.wsel.set c.val w }

/-- `lfsr <- l` -/
def State.writeLfsr (s : State) (l : Lfsr) : State := { s with lfsr := l }

/-! ### Responses -/

/-- The response of a command that is not illegal (30_encoding.md R46). -/
def Response.answer (sample : Sample) (phase : Phase) (refresh : Bool) : Response :=
  ⟨true, sample, phase, refresh, false⟩

/-- The response of an illegal word (30_encoding.md R46, 60_exceptions.md R74). -/
def Response.illegal : Response := ⟨true, 0#8, 0#16, false, true⟩

/-- `respond(sample, phase, refresh)` (00_scope.md R10). -/
def State.respond (s : State) (sample : Sample) (phase : Phase) (refresh : Bool) : State :=
  { s with rsp := Response.answer sample phase refresh }

/-- What the output ports carry (30_encoding.md R34). -/
def State.outputs (s : State) : Outputs :=
  ⟨s.rsp.valid, s.rsp.sample, s.rsp.phase, s.rsp.refresh, s.rsp.err, s.err⟩

/-! ### The exception, the idle edge and the reset -/

/-- `raise IllegalCommand()`: the whole effect of the exception (60_exceptions.md R74, R78). -/
def State.raiseIllegalCommand (s : State) : State := { s with err := true, rsp := Response.illegal }

/-- An edge with no reset and no command (30_encoding.md R35). -/
def State.idle (s : State) : State := { s with rsp := Response.quiet }

/-- The reset action (70_reset_and_hazards.md R83). What the ports carry later is not the WNG's to change. -/
def State.applyReset (s : State) : State := { State.reset with inputs := s.inputs }

/-! ### The input ports -/

/-- The state with the given values at the input ports' coming edges. -/
def State.withInputs (s : State) (es : List Edge) : State := { s with inputs := es }

/-- What the input ports carry at this edge, and the state that awaits the edges after it. Where the list of
coming edges is used up, the ports ask for nothing (log entry 3). -/
def State.takeEdge (s : State) : Edge × State :=
  match s.inputs with
  | [] => (Edge.idle, s)
  | e :: es => (e, s.withInputs es)

end Sys2Proof.Machine
end

