-- ==== Sys2Proof/Machine/Chrst.lean ====
section
/-! DEFINITION. The meaning of CHRST (41_commands.md R68). -/

namespace Sys2Proof.Machine

/-- CHRST: the channel's latch and selector go back to their reset values; the LFSR does not change
(41_commands.md R68). -/
def execChrst (c : Channel) (s : State) : Host.Outcome State Fault Refusal :=
  .next (((s.writeLatch c 0#8).writeWsel c .tri).respond 0#8 0#16 false)

end Sys2Proof.Machine
end

