-- ==== Sys2Proof/Machine/Nop.lean ====
section
/-! DEFINITION. The meaning of NOP (41_commands.md R59). -/

namespace Sys2Proof.Machine

/-- NOP: `respond(0, 0, 0)` (41_commands.md R59). -/
def execNop (s : State) : Host.Outcome State Fault Refusal := .next (s.respond 0#8 0#16 false)

end Sys2Proof.Machine
end

