-- ==== Sys2Proof/Machine/Flags.lean ====
section
/-! DEFINITION. The two flags of 10_state.md R21, `refresh` and `err`, as the rules compute them. -/

namespace Sys2Proof.Machine

/-- `refresh_due(phase)`: the phase is at or above `QUARTER`, unsigned (40_waveforms.md R53). A noise SAMPLE's
`rsp_refresh` is this test's answer (41_commands.md R60). -/
def refreshDue (phase : Phase) : Bool := decide (Config.quarter.toNat ≤ phase.toNat)

/-- The code of a fault (60_exceptions.md R73). -/
def Fault.code : Fault → Nat
  | .illegalCommand => 1

/-- The fault the state records, sticky until reset (60_exceptions.md R74, 93 I6). -/
def State.fault? (s : State) : Option Fault := if s.err then some .illegalCommand else none

/-- The recorded fault's code; 0 means "no fault" (60_exceptions.md R73). -/
def State.faultCode (s : State) : Nat :=
  match s.fault? with
  | some f => f.code
  | none => 0

end Sys2Proof.Machine
end

