-- ==== Sys2Proof/Machine/Waveforms.lean ====
section
/-! DEFINITION. The waveform functions and the noise primitives of 40_waveforms.md: pure functions, none of which
reads or writes the state. Values are mathematical integers (40_waveforms.md R95). -/

namespace Sys2Proof.Machine

/-- `tri(p8)` (40_waveforms.md R48, 90_conflicts.md C1). -/
def tri (p8 : WavePhase) : Int :=
  if p8.toNat < 128 then (p8.toNat : Int) - 64 else (255 - (p8.toNat : Int)) - 63

/-- `pulse(p8, pw)`; the comparison is unsigned (40_waveforms.md R49). -/
def pulse (p8 : WavePhase) (pw : PulseWidth) : Int :=
  if p8.toNat < pw.toNat then Config.levelLow else Config.levelHigh

/-- `saw(p8)` (40_waveforms.md R50). -/
def saw (p8 : WavePhase) : Int := ((p8 >>> 1).toNat : Int) - 64

/-- `wave(w, p8, pw)` for the waveforms that need no state (40_waveforms.md R54); none for NOISE, which "is not a
pure function of the phase". -/
def wave (w : Waveform) (p8 : WavePhase) (pw : PulseWidth) : Option Int :=
  match w with
  | .tri => some (tri p8)
  | .pulse => some (pulse p8 pw)
  | .saw => some (saw p8)
  | .noise => none

/-- `lfsr_step(l)`: the right-shifting Galois form (40_waveforms.md R51). -/
def lfsrStep (l : Lfsr) : Lfsr :=
  if l.getLsbD 0 then (l >>> 1) ^^^ Config.lfsrTaps else l >>> 1

/-- `noise_value(l)`: the top 7 bits `l[15:9]`, sign-extended to 8 (40_waveforms.md R52, 90_conflicts.md C3). -/
def noiseValue (l : Lfsr) : Sample := (l.extractLsb' 9 7).signExtend 8

/-- `n` steps of the LFSR (40_waveforms.md R58). -/
def lfsrSteps : Nat → Lfsr → Lfsr
  | 0, l => l
  | n + 1, l => lfsrSteps n (lfsrStep l)

end Sys2Proof.Machine
end

