-- ==== Sys2Proof/Machine/Sample.lean ====
section
/-! DEFINITION. The meaning of SAMPLE (41_commands.md R60 to R63). -/

namespace Sys2Proof.Machine

/-- SAMPLE on a NOISE channel at or above the threshold: the shared LFSR steps once, the new value is latched and
returned, and the phase goes down by a quarter period (41_commands.md R63). -/
def State.noiseRefresh (s : State) (c : Channel) (phase : Phase) : State :=
  let l := lfsrStep s.lfsr
  ((s.writeLfsr l).writeLatch c (noiseValue l)).respond (noiseValue l) (refreshedPhase phase) true

/-- SAMPLE on a NOISE channel below the threshold: the latched sample is reused (41_commands.md R62). -/
def State.noiseHold (s : State) (c : Channel) (phase : Phase) : State :=
  s.respond (s.readLatch c) phase false

/-- SAMPLE (41_commands.md R60): a tone (R61), a held noise sample (R62) or a refresh (R63). -/
def execSample (c : Channel) (phase : Phase) (pw : PulseWidth) (s : State) : Host.Outcome State Fault Refusal :=
  match wave (s.readWsel c) (wavePhase phase) pw with
  | some v => .next (s.respond (bits8 v) phase false)
  | none => if refreshDue phase then .next (s.noiseRefresh c phase) else .next (s.noiseHold c phase)

end Sys2Proof.Machine
end

