-- ==== Sys2Proof/Machine/Sel.lean ====
section
/-! DEFINITION. The meanings of the four SEL forms (41_commands.md R64 to R67). -/

namespace Sys2Proof.Machine

/-- Writes channel `c`'s selector and responds with zeros: what the SEL forms share (41_commands.md section 3). -/
def State.select (s : State) (c : Channel) (w : Waveform) : State := (s.writeWsel c w).respond 0#8 0#16 false

/-- A switch onto NOISE reseeds the shared LFSR; a channel that is NOISE already does not (41_commands.md R67). -/
def State.reseedOnSwitch (s : State) (c : Channel) : State :=
  if s.readWsel c ≠ .noise then s.writeLfsr Config.lfsrSeed else s

/-- SEL.TRI (41_commands.md R64). -/
def execSelTri (c : Channel) (s : State) : Host.Outcome State Fault Refusal := .next (s.select c .tri)

/-- SEL.PULSE (41_commands.md R65). -/
def execSelPulse (c : Channel) (s : State) : Host.Outcome State Fault Refusal := .next (s.select c .pulse)

/-- SEL.SAW (41_commands.md R66). -/
def execSelSaw (c : Channel) (s : State) : Host.Outcome State Fault Refusal := .next (s.select c .saw)

/-- SEL.NOISE (41_commands.md R67). -/
def execSelNoise (c : Channel) (s : State) : Host.Outcome State Fault Refusal :=
  .next ((s.reseedOnSwitch c).select c .noise)

end Sys2Proof.Machine
end

