-- ==== Sys2Proof/Machine/Dispatch.lean ====
section
/-! DEFINITION. The meaning of every command, one arm per row of spec/opcode_table.json. -/

namespace Sys2Proof.Machine

/-- What a command does (41_commands.md): the next state holds its response. -/
def exec (i : Instr) (s : State) : Host.Outcome State Fault Refusal :=
  match i with
  | .nop => Sys2Proof.Machine.execNop s
  | .sample ch phase pw => Sys2Proof.Machine.execSample ch phase pw s
  | .selTri ch => Sys2Proof.Machine.execSelTri ch s
  | .selPulse ch => Sys2Proof.Machine.execSelPulse ch s
  | .selSaw ch => Sys2Proof.Machine.execSelSaw ch s
  | .selNoise ch => Sys2Proof.Machine.execSelNoise ch s
  | .chrst ch => Sys2Proof.Machine.execChrst ch s

end Sys2Proof.Machine
end

