-- ==== Sys2Proof/Machine/Port.lean ====
section
/-! DEFINITION. One rising edge of `clk` at the WNG's ports (30_encoding.md R35, 60_exceptions.md R77). -/

namespace Sys2Proof.Machine

/-- An accepted word: the command it decodes to runs, and an illegal word raises IllegalCommand and executes
nothing (30_encoding.md R35, R41). -/
def acceptWord (w : Word) (s : State) : Host.Outcome State Fault Refusal :=
  match decode w with
  | .command i => exec i s
  | .illegal _ => .next s.raiseIllegalCommand

/-- What an edge does, by the priority of 60_exceptions.md R77: reset first, and a command at that edge is
discarded (70_reset_and_hazards.md R84); then a command; else nothing (30_encoding.md R35). -/
def clockEdge (e : Edge) (s : State) : Host.Outcome State Fault Refusal :=
  if e.rst then .next s.applyReset
  else if e.cmdValid then acceptWord e.cmd s
  else .next s.idle

end Sys2Proof.Machine
end

