-- ==== Sys2Proof/Machine/Step.lean ====
section
/-! DEFINITION. The step: one rising edge of `clk`, with what the input ports carry at it. -/

namespace Sys2Proof.Machine

/-- One step of the WNG is one rising edge of `clk` (30_encoding.md R35). -/
def step (s : State) : Host.Outcome State Fault Refusal := clockEdge s.takeEdge.1 s.takeEdge.2

/-- `s` with the command word `tableWord nbits w` presented at the next edge, before whatever the ports carry
after it. The WNG fetches nothing (10_state.md R20): this is the caller sending a command (log entry 4). -/
def State.withFetchWord (s : State) (nbits w : Nat) : State :=
  s.withInputs (Edge.command (tableWord nbits w) :: s.inputs)

end Sys2Proof.Machine
end

