-- ==== Sys2Proof/Machine/Assembler.lean ====
section
/-! DEFINITION. The spec's assembler: from the text of a line to the command words it stands for (30_encoding.md
R44, R45; log entry 11). -/

namespace Sys2Proof.Machine

/-! ### From a line to words -/

/-- A channel number as written, taken as a channel. -/
def asmChannel (c : Nat) : Channel := Fin.ofNat 4 c

/-- The SAMPLE with these numbers. -/
def asmSample (c phase pw : Nat) : Instr :=
  .sample (asmChannel c) (BitVec.ofNat 16 phase) (BitVec.ofNat 8 pw)

/-- The commands a line other than `.word` expands to, in order (30_encoding.md R45). -/
def expandLine : AsmLine → List Instr
  | .nop => [.nop]
  | .sample c phase pw => [asmSample c phase pw]
  | .sampleNoWidth c phase => [asmSample c phase 0]
  | .selForm wave c => [selCommand wave (asmChannel c)]
  | .sel c wave => [selCommand wave (asmChannel c)]
  | .chrst c => [.chrst (asmChannel c)]
  | .tick p0 p1 p2 p3 w0 w1 w2 w3 => [asmSample 0 p0 w0, asmSample 1 p1 w1, asmSample 2 p2 w2, asmSample 3 p3 w3]
  | .word _ => []

/-- The words of a line; none where a number is out of range (30_encoding.md R44). -/
def assemble (line : AsmLine) : Option (List Word) :=
  if line.wellFormed then
    match line with
    | .word w => some [BitVec.ofNat 32 w]
    | l => some ((expandLine l).map encode)
  else none

/-! ### From text to a line -/

/-- A token of a line: a word, a comma or a slash. -/
inductive AsmToken where
  | text (cs : List Char)
  | comma
  | slash
  deriving DecidableEq, Repr

/-- Ends the word read so far (its letters reversed), if there is one. -/
def closeToken (acc : List Char) (ts : List AsmToken) : List AsmToken :=
  if acc.isEmpty then ts else .text acc.reverse :: ts

/-- Splits a line at spaces, commas and slashes; `acc` holds the word being read, reversed. -/
def lexLine : List Char → List Char → List AsmToken
  | acc, [] => closeToken acc []
  | acc, ch :: cs =>
    if ch = ' ' then closeToken acc (lexLine [] cs)
    else if ch = ',' then closeToken acc (.comma :: lexLine [] cs)
    else if ch = '/' then closeToken acc (.slash :: lexLine [] cs)
    else lexLine (ch :: acc) cs

/-- The value of a digit in base 16 (base 10 takes those below 10). -/
def digitValue (ch : Char) : Option Nat :=
  if 48 ≤ ch.toNat ∧ ch.toNat ≤ 57 then some (ch.toNat - 48)
  else if 65 ≤ ch.toNat ∧ ch.toNat ≤ 70 then some (ch.toNat - 55)
  else if 97 ≤ ch.toNat ∧ ch.toNat ≤ 102 then some (ch.toNat - 87)
  else none

/-- Reads digits in a base, after a value read so far. -/
def readDigits (base : Nat) : Nat → List Char → Option Nat
  | n, [] => some n
  | n, ch :: cs =>
    match digitValue ch with
    | some d => if d < base then readDigits base (n * base + d) cs else none
    | none => none

/-- A number, decimal or `0x` hexadecimal: 30_encoding.md R44 says so of a channel, a phase and a pulse width. Leading
zeros pass, and `0X` does not begin a number (log entry 11, DESIGN CHOICE). -/
def readNumber (cs : List Char) : Option Nat :=
  match cs with
  | [] => none
  | [ch] => readDigits 10 0 [ch]
  | c0 :: c1 :: ds =>
    if c0 = '0' ∧ c1 = 'x' then (if ds.isEmpty then none else readDigits 16 0 ds) else readDigits 10 0 cs

/-- A channel operand: `c` and a number. -/
def readChannel (cs : List Char) : Option Nat :=
  match cs with
  | [] => none
  | ch :: ds => if ch = 'c' then readNumber ds else none

/-- The name of a waveform (30_encoding.md R38). -/
def readWaveform (cs : List Char) : Option Waveform :=
  if cs = ['T', 'R', 'I'] then some .tri
  else if cs = ['P', 'U', 'L', 'S', 'E'] then some .pulse
  else if cs = ['S', 'A', 'W'] then some .saw
  else if cs = ['N', 'O', 'I', 'S', 'E'] then some .noise
  else none

/-- `SEL.` and a waveform's name. -/
def readSelForm (cs : List Char) : Option Waveform :=
  if cs.take 4 = ['S', 'E', 'L', '.'] then readWaveform (cs.drop 4) else none

/-- The line these tokens are (30_encoding.md R44, R45). Ranges are checked later, by `AsmLine.wellFormed`. R44
does not say how the `<u32>` of `.word` is written: it is read as the other numbers are, decimal or `0x` hexadecimal
(log entry 11, DESIGN CHOICE). -/
def parseTokens : List AsmToken → Option AsmLine
  | [.text m] => if m = ['N', 'O', 'P'] then some .nop else none
  | [.text m, .text x] =>
    if m = ['.', 'w', 'o', 'r', 'd'] then (readNumber x).map .word
    else if m = ['C', 'H', 'R', 'S', 'T'] then (readChannel x).map .chrst
    else
      match readSelForm m, readChannel x with
      | some wave, some c => some (.selForm wave c)
      | _, _ => none
  | [.text m, .text x, .comma, .text y] =>
    if m = ['S', 'E', 'L'] then
      match readChannel x, readWaveform y with
      | some c, some wave => some (.sel c wave)
      | _, _ => none
    else if m = ['S', 'A', 'M', 'P', 'L', 'E'] then
      match readChannel x, readNumber y with
      | some c, some phase => some (.sampleNoWidth c phase)
      | _, _ => none
    else none
  | [.text m, .text x, .comma, .text y, .comma, .text z] =>
    if m = ['S', 'A', 'M', 'P', 'L', 'E'] then
      match readChannel x, readNumber y, readNumber z with
      | some c, some phase, some pw => some (.sample c phase pw)
      | _, _, _ => none
    else none
  | [.text m, .text p0, .comma, .text p1, .comma, .text p2, .comma, .text p3, .slash,
      .text w0, .comma, .text w1, .comma, .text w2, .comma, .text w3] =>
    if m = ['T', 'I', 'C', 'K'] then
      match [p0, p1, p2, p3, w0, w1, w2, w3].mapM readNumber with
      | some [a, b, c, d, e, f, g, h] => some (.tick a b c d e f g h)
      | _ => none
    else none
  | _ => none

/-- The line a text stands for, if it is one of 30_encoding.md R44 or R45. -/
def parseLine (cs : List Char) : Option AsmLine := parseTokens (lexLine [] cs)

end Sys2Proof.Machine
end

