-- ==== Sys2Proof/Machine/Caller.lean ====
section
/-! DEFINITION. The obliging caller of 70_reset_and_hazards.md R86, R87 and R89: the environment of the WNG, not a
part of it. It owns what 10_state.md R17 says the WNG does not hold (log entry 12). -/

namespace Sys2Proof.Machine

/-- The caller's side of the four channels (10_state.md R17). -/
structure Caller where
  /-- Each channel's stored phase accumulator. -/
  phase : Vector Phase 4
  /-- Each channel's frequency. -/
  freq : Vector Phase 4
  /-- Each channel's pulse width. -/
  width : Vector PulseWidth 4
  /-- The responses it has had, the newest first, each with its channel: a record, which the caller never reads. -/
  heard : List (Channel × Response)
  deriving DecidableEq, Repr

/-- The WNG accepts the word of a command at its next edge. -/
def sendCommand (i : Instr) (s : State) : Host.Outcome State Fault Refusal :=
  step (s.withInputs (Edge.command (encode i) :: s.inputs))

/-- The phase the caller sends: the stored phase advanced by the frequency, modulo 2^16
(70_reset_and_hazards.md R86). -/
def Caller.advanced (k : Caller) (c : Channel) : Phase := k.phase.get c + k.freq.get c

/-- The caller stores a response's phase back (70_reset_and_hazards.md R86). -/
def Caller.store (k : Caller) (c : Channel) (r : Response) : Caller :=
  { k with phase := k.phase.set c.val r.phase, heard := (c, r) :: k.heard }

/-- One channel's share of a tick: advance the phase, send the SAMPLE with the pulse width, store `rsp_phase`
(70_reset_and_hazards.md R86, R89). -/
def Caller.serve (c : Channel) (k : Caller) (s : State) : Host.Outcome (Caller × State) Fault Refusal :=
  match sendCommand (.sample c (k.advanced c) (k.width.get c)) s with
  | .next t => .next (k.store c t.rsp, t)
  | .fault r => .fault r
  | .refused r => .refused r

/-- Serves channels one after another. -/
def Caller.serveAll : List Channel → Caller → State → Host.Outcome (Caller × State) Fault Refusal
  | [], k, s => .next (k, s)
  | c :: cs, k, s =>
    match Caller.serve c k s with
    | .next (k', s') => Caller.serveAll cs k' s'
    | .fault r => .fault r
    | .refused r => .refused r

/-- One tick: the four SAMPLEs in channel order, nothing between them (70_reset_and_hazards.md R87). -/
def Caller.tick (k : Caller) (s : State) : Host.Outcome (Caller × State) Fault Refusal :=
  Caller.serveAll [0, 1, 2, 3] k s

/-- `n` ticks. -/
def Caller.ticks : Nat → Caller → State → Host.Outcome (Caller × State) Fault Refusal
  | 0, k, s => .next (k, s)
  | n + 1, k, s =>
    match Caller.tick k s with
    | .next (k', s') => Caller.ticks n k' s'
    | .fault r => .fault r
    | .refused r => .refused r

/-- How many of the responses heard for channel `c` report a refresh (10_state.md R21). -/
def Caller.refreshes (k : Caller) (c : Channel) : Nat := k.heard.countP fun h => h.1 == c && h.2.refresh

end Sys2Proof.Machine
end

