-- ==== Sys2Proof/Machine/PowerOn.lean ====
section
/-! DEFINITION. Power-on, before the first reset (70_reset_and_hazards.md R82, 93 I5). No state exists there, so
this function has no state to read. -/

namespace Sys2Proof.Machine

/-- From power-on, with what the ports carry at the edges to come: edges without a command pass, the first edge
with `rst = 1` gives the reset state, and a command before it is refused (93 I5; log entry 8). -/
def powerOn : List Edge → Host.Outcome State Fault Refusal
  | [] => .refused .noResetYet
  | e :: es =>
    if e.rst then .next (State.reset.withInputs es)
    else if e.cmdValid then .refused .commandBeforeReset
    else powerOn es

end Sys2Proof.Machine
end

