-- ==== Sys2Proof/Safety.lean ====
section
/-! DEFINITION. What claims speak of: the machine's invariant (10_state.md R13, R24), runs over the edges the ports
carry, what was accepted in them, and the order a caller keeps (70_reset_and_hazards.md R87, R88). -/

namespace Sys2Proof.Machine

/-! ### The invariant -/

/-- A sample in the range of a latch (10_state.md R13). -/
def latchInRange (v : Sample) : Bool := decide (-64 ≤ v.toInt ∧ v.toInt ≤ 63)

/-- The LFSR is not zero (10_state.md R24) and every latch is in [-64, 63] (10_state.md R13). -/
def State.Inv (s : State) : Prop := s.lfsr ≠ 0#16 ∧ ∀ c : Channel, latchInRange (s.readLatch c) = true

/-! ### Runs -/

/-- The outcome of the edges `es` from `s`, one step each. -/
def runEdges (es : List Edge) (s : State) : Host.Outcome State Fault Refusal :=
  Host.Core.run Sys2Proof.core es.length (s.withInputs es)

/-- The responses the ports show after each of the edges `es`, in order (30_encoding.md R35). -/
def replies : List Edge → State → List Response
  | [], _ => []
  | e :: es, s =>
    match step (s.withInputs [e]) with
    | .next t => t.rsp :: replies es t
    | .fault _ => []
    | .refused _ => []

/-- The command an edge makes the WNG execute, if it does (30_encoding.md R35, 60_exceptions.md R77). -/
def Edge.executes? (e : Edge) : Option Instr :=
  if e.rst then none
  else if e.cmdValid then
    match decode e.cmd with
    | .command i => some i
    | .illegal _ => none
  else none

/-- An edge that presents an illegal word which is not discarded (30_encoding.md R41, 60_exceptions.md R77). -/
def Edge.isIllegal (e : Edge) : Bool :=
  !e.rst && e.cmdValid &&
    match decode e.cmd with
    | .command _ => false
    | .illegal _ => true

/-- This command, in this state, steps the shared LFSR: a SAMPLE of a NOISE channel at or above the threshold
(41_commands.md R63). -/
def refreshes (i : Instr) (s : State) : Bool :=
  match i with
  | .nop => false
  | .sample ch phase _ => decide (s.readWsel ch = .noise) && refreshDue phase
  | .selTri _ => false
  | .selPulse _ => false
  | .selSaw _ => false
  | .selNoise _ => false
  | .chrst _ => false

/-- This command, in this state, switches a channel onto NOISE (41_commands.md R67). -/
def switchesOntoNoise (i : Instr) (s : State) : Bool :=
  match i with
  | .nop => false
  | .sample _ _ _ => false
  | .selTri _ => false
  | .selPulse _ => false
  | .selSaw _ => false
  | .selNoise ch => decide (s.readWsel ch ≠ .noise)
  | .chrst _ => false

/-- The channel a command names, if it names one (30_encoding.md R36). -/
def channelOf? (i : Instr) : Option Channel :=
  match i with
  | .nop => none
  | .sample ch _ _ => some ch
  | .selTri ch => some ch
  | .selPulse ch => some ch
  | .selSaw ch => some ch
  | .selNoise ch => some ch
  | .chrst ch => some ch

/-! ### The caller's order -/

/-- The commands keep the order of 70_reset_and_hazards.md R87 and R88: SAMPLEs come in whole ticks of channels
0, 1, 2, 3 with nothing between them, and other commands only between ticks. `k` is the channel due next. -/
def keepsTickOrder : Nat → List Instr → Bool
  | k, [] => k == 0
  | k, .sample ch _ _ :: is => ch.val == k && keepsTickOrder ((k + 1) % Config.numChannels) is
  | k, .nop :: is => k == 0 && keepsTickOrder k is
  | k, .selTri _ :: is => k == 0 && keepsTickOrder k is
  | k, .selPulse _ :: is => k == 0 && keepsTickOrder k is
  | k, .selSaw _ :: is => k == 0 && keepsTickOrder k is
  | k, .selNoise _ :: is => k == 0 && keepsTickOrder k is
  | k, .chrst _ :: is => k == 0 && keepsTickOrder k is

end Sys2Proof.Machine
end

