-- ==== Sys2Proof/Certificates/Slice0/Obligations.lean ====
section
/-! DEFINITION. The statements about the WNG, for the provers. Each docstring names the rule of spec/ it formalises. -/

open Sys2Proof Sys2Proof.Machine

/-! ### What each command does, and that it completes -/

/-- 41_commands.md R59. NOP completes from every state, answers zeros, and changes nothing but the response; its
word is 0, and a word with `op = 00` and any other bit set is illegal. -/
def Obligations.NopOnlyAnswersZeros : Prop :=
  (∀ s : State, exec .nop s = .next { s with rsp := ⟨true, 0#8, 0#16, false, false⟩ }) ∧
  encode .nop = 0x00000000#32 ∧ decode 0x00000000#32 = .command .nop ∧
  ∀ w : Word, w.extractLsb' 0 2 = 0#2 → w ≠ 0#32 → ∃ why, decode w = .illegal why

/-- 41_commands.md R60, R61. SAMPLE on a TRI, PULSE or SAW channel completes, answers the wave's value and the input
phase, and changes nothing but the response; with R61's corner cases and its example. R61 is marked as the spec's own
inference: "[derived: from rule R60 and 40_waveforms.md rules R48 to R50]". -/
def Obligations.ToneSampleAnswersTheWave : Prop :=
  (∀ (c : Channel) (phase : Phase) (pw : PulseWidth) (s : State),
    (s.readWsel c = .tri → exec (.sample c phase pw) s =
      .next { s with rsp := ⟨true, bits8 (tri (phase.extractLsb' 8 8)), phase, false, false⟩ }) ∧
    (s.readWsel c = .pulse → exec (.sample c phase pw) s =
      .next { s with rsp := ⟨true, bits8 (pulse (phase.extractLsb' 8 8) pw), phase, false, false⟩ }) ∧
    (s.readWsel c = .saw → exec (.sample c phase pw) s =
      .next { s with rsp := ⟨true, bits8 (saw (phase.extractLsb' 8 8)), phase, false, false⟩ })) ∧
  bits8 (tri ((0x8000#16 : Phase).extractLsb' 8 8)) = 0x40#8 ∧
  (bits8 (saw ((0xFF00#16 : Phase).extractLsb' 8 8))).toInt = 63 ∧
  (bits8 (saw ((0x0100#16 : Phase).extractLsb' 8 8))).toInt = -64 ∧
  encode (.sample 1 0x8000#16 0#8) = 0x80000011#32

/-- 41_commands.md R62. SAMPLE on a NOISE channel below the threshold completes, answers the latch and the input
phase, and changes nothing but the response; after a switch onto NOISE that latch is the one held before. -/
def Obligations.NoiseSampleBelowQuarterHolds : Prop :=
  (∀ (c : Channel) (phase : Phase) (pw : PulseWidth) (s : State),
    s.readWsel c = .noise → phase.toNat < 0x4000 →
      exec (.sample c phase pw) s =
        .next { s with rsp := ⟨true, s.readLatch c, phase, false, false⟩ }) ∧
  (∀ (c : Channel) (phase : Phase) (pw : PulseWidth) (s : State), phase.toNat < 0x4000 →
    ∃ t u, exec (.selNoise c) s = .next t ∧ exec (.sample c phase pw) t = .next u ∧
      u.rsp.sample = s.readLatch c)

/-- 41_commands.md R63. SAMPLE on a NOISE channel at or above the threshold completes: the shared LFSR steps once,
the new noise value is latched in this channel and answered, the phase goes down by a quarter without wrapping
(one quarter only, whatever the phase), and nothing else changes. -/
def Obligations.NoiseSampleAtQuarterRefreshes : Prop :=
  ∀ (c : Channel) (phase : Phase) (pw : PulseWidth) (s : State),
    s.readWsel c = .noise → 0x4000 ≤ phase.toNat →
      exec (.sample c phase pw) s =
        .next { s with
          lfsr := lfsrStep s.lfsr
          latch := s.latch.set c.val (noiseValue (lfsrStep s.lfsr))
          rsp := ⟨true, noiseValue (lfsrStep s.lfsr), phase - 0x4000#16, true, false⟩ } ∧
      (phase - 0x4000#16).toNat = phase.toNat - 0x4000 ∧
      (0x8000 ≤ phase.toNat → 0x4000 ≤ (phase - 0x4000#16).toNat)

/-- 41_commands.md R64. SEL.TRI completes from every state, writes this channel's selector, answers zeros, and
changes nothing else; on a TRI channel the selector file is unchanged too. -/
def Obligations.SelTriWritesTheSelector : Prop :=
  (∀ (c : Channel) (s : State), exec (.selTri c) s =
    .next { s with wsel := s.wsel.set c.val .tri, rsp := ⟨true, 0#8, 0#16, false, false⟩ }) ∧
  (∀ (c : Channel) (s : State), s.readWsel c = .tri →
    exec (.selTri c) s = .next { s with rsp := ⟨true, 0#8, 0#16, false, false⟩ }) ∧
  (∀ c : Channel, encode (.selTri c) = 0x00000002#32 ||| BitVec.ofNat 32 c.val <<< 4 ∧
    decode (0x00000002#32 ||| BitVec.ofNat 32 c.val <<< 4) = .command (.selTri c))

/-- 41_commands.md R65. SEL.PULSE completes from every state, writes this channel's selector, answers zeros, and
changes nothing else. -/
def Obligations.SelPulseWritesTheSelector : Prop :=
  (∀ (c : Channel) (s : State), exec (.selPulse c) s =
    .next { s with wsel := s.wsel.set c.val .pulse, rsp := ⟨true, 0#8, 0#16, false, false⟩ }) ∧
  (∀ (c : Channel) (s : State), s.readWsel c = .pulse →
    exec (.selPulse c) s = .next { s with rsp := ⟨true, 0#8, 0#16, false, false⟩ }) ∧
  (∀ c : Channel, encode (.selPulse c) = 0x00000042#32 ||| BitVec.ofNat 32 c.val <<< 4 ∧
    decode (0x00000042#32 ||| BitVec.ofNat 32 c.val <<< 4) = .command (.selPulse c)) ∧
  encode (.selPulse 2) = 0x00000062#32

/-- 41_commands.md R66. SEL.SAW completes from every state, writes this channel's selector, answers zeros, and
changes nothing else. -/
def Obligations.SelSawWritesTheSelector : Prop :=
  (∀ (c : Channel) (s : State), exec (.selSaw c) s =
    .next { s with wsel := s.wsel.set c.val .saw, rsp := ⟨true, 0#8, 0#16, false, false⟩ }) ∧
  (∀ (c : Channel) (s : State), s.readWsel c = .saw →
    exec (.selSaw c) s = .next { s with rsp := ⟨true, 0#8, 0#16, false, false⟩ }) ∧
  (∀ c : Channel, encode (.selSaw c) = 0x00000082#32 ||| BitVec.ofNat 32 c.val <<< 4 ∧
    decode (0x00000082#32 ||| BitVec.ofNat 32 c.val <<< 4) = .command (.selSaw c)) ∧
  encode (.selSaw 3) = 0x000000B2#32

/-- 41_commands.md R67. SEL.NOISE completes from every state: a switch onto NOISE reseeds the shared LFSR whatever
the other channels are, a NOISE channel keeps the LFSR as it is, and nothing but the selector and the response
changes beside it. -/
def Obligations.SelNoiseReseedsOnASwitch : Prop :=
  (∀ (c : Channel) (s : State), s.readWsel c ≠ .noise → exec (.selNoise c) s =
    .next { s with
      lfsr := Config.lfsrSeed
      wsel := s.wsel.set c.val .noise
      rsp := ⟨true, 0#8, 0#16, false, false⟩ }) ∧
  (∀ (c : Channel) (s : State), s.readWsel c = .noise →
    exec (.selNoise c) s = .next { s with rsp := ⟨true, 0#8, 0#16, false, false⟩ }) ∧
  (∀ c : Channel, encode (.selNoise c) = 0x000000C2#32 ||| BitVec.ofNat 32 c.val <<< 4 ∧
    decode (0x000000C2#32 ||| BitVec.ofNat 32 c.val <<< 4) = .command (.selNoise c)) ∧
  encode (.selNoise 1) = 0x000000D2#32

/-- 41_commands.md R68. CHRST completes from every state: this channel's latch is 0 and its selector TRI, the LFSR
and everything else but the response is unchanged, and the next switch onto NOISE reseeds. -/
def Obligations.ChrstResetsOneChannel : Prop :=
  (∀ (c : Channel) (s : State), exec (.chrst c) s =
    .next { s with
      latch := s.latch.set c.val 0#8
      wsel := s.wsel.set c.val .tri
      rsp := ⟨true, 0#8, 0#16, false, false⟩ }) ∧
  (∀ (c : Channel) (s : State), ∃ t u, exec (.chrst c) s = .next t ∧
    t.readLatch c = State.reset.readLatch c ∧ t.readWsel c = State.reset.readWsel c ∧ t.lfsr = s.lfsr ∧
    exec (.selNoise c) t = .next u ∧ u.lfsr = Config.lfsrSeed) ∧
  (∀ c : Channel, encode (.chrst c) = 0x00000003#32 ||| BitVec.ofNat 32 c.val <<< 4 ∧
    decode (0x00000003#32 ||| BitVec.ofNat 32 c.val <<< 4) = .command (.chrst c)) ∧
  encode (.chrst 2) = 0x00000023#32

/-! ### The step, the port, the reset and the exception -/

/-- 30_encoding.md R35, R40. Where the ports carry, at the next edge and without reset, a valid word that decodes to
the well-formed command `i`, the step is `exec i` with that edge taken from the ports; and that is the step that
`State.withFetchWord` prepares. -/
def Obligations.StepRunsTheDecodedCommand : Prop :=
  (∀ (s : State) (e : Edge) (es : List Edge) (i : Instr),
    s.inputs = e :: es → e.rst = false → e.cmdValid = true → decode e.cmd = .command i →
      i.wellFormed = true → step s = exec i { s with inputs := es }) ∧
  (∀ (s : State) (w : Nat) (i : Instr), decodeTableWord 32 w = some i →
    step (s.withFetchWord 32 w) = exec i s)

/-- 60_exceptions.md R74. An illegal word sets `err` and its own response, changes nothing else, and the WNG goes on:
a command at the next edge runs as it does from any state. The fault recorded has code 1. -/
def Obligations.IllegalWordOnlySetsErr : Prop :=
  ∀ (s : State) (e : Edge) (es : List Edge) (why : Illegal),
    s.inputs = e :: es → e.rst = false → e.cmdValid = true → decode e.cmd = .illegal why →
      ∃ t, step s = .next t ∧
        t = { s with inputs := es, err := true, rsp := ⟨true, 0#8, 0#16, false, true⟩ } ∧
        t.fault? = some .illegalCommand ∧ t.faultCode = 1 ∧
        ∀ (i : Instr) (rest : List Edge), es = ⟨false, true, encode i⟩ :: rest →
          step t = exec i { t with inputs := rest }

/-- 30_encoding.md R35. Every edge is one step that never stalls: it takes one edge from the ports; `rsp_valid` is 1
in the next cycle exactly when a command was accepted; and an edge with neither reset nor command changes nothing
but the response, which is then all 0. -/
def Obligations.EveryEdgeIsOneStep : Prop :=
  (∀ (s : State) (e : Edge) (es : List Edge), s.inputs = e :: es → ∃ t, step s = .next t ∧ t.inputs = es ∧
    (t.rsp.valid = true ↔ e.rst = false ∧ e.cmdValid = true)) ∧
  (∀ (s : State) (e : Edge) (es : List Edge), s.inputs = e :: es → e.rst = false → e.cmdValid = false →
    step s = .next { s with inputs := es, rsp := ⟨false, 0#8, 0#16, false, false⟩ })

/-- 70_reset_and_hazards.md R83, R84. At an edge with `rst = 1` every field takes its reset value and the response is
0, whatever `cmd_valid` and `cmd` carry; a second such edge repeats the same assignment. -/
def Obligations.ResetWinsOverACommand : Prop :=
  (∀ (s : State) (valid : Bool) (w : Word) (es : List Edge), s.inputs = ⟨true, valid, w⟩ :: es →
    step s = .next {
      lfsr := Config.lfsrSeed
      latch := #v[0#8, 0#8, 0#8, 0#8]
      wsel := #v[.tri, .tri, .tri, .tri]
      err := false
      rsp := ⟨false, 0#8, 0#16, false, false⟩
      inputs := es }) ∧
  (∀ (s : State) (v v' : Bool) (w w' : Word) (es : List Edge),
    s.inputs = ⟨true, v, w⟩ :: ⟨true, v', w'⟩ :: es →
      ∃ t, step s = .next t ∧ step t = .next { t with inputs := es })

/-- 10_state.md R16. The values right after reset. -/
def Obligations.ResetValues : Prop :=
  State.reset.lfsr = Config.lfsrSeed ∧ (∀ c : Channel, State.reset.readLatch c = 0#8) ∧
  (∀ c : Channel, State.reset.readWsel c = .tri) ∧ State.reset.err = false

/-- 70_reset_and_hazards.md R85. A SEL.NOISE right after reset reseeds the LFSR to the value it already holds. The
spec's own inference: "[derived: from rule R83 and 41_commands.md rule R67]". -/
def Obligations.FirstSelNoiseKeepsTheSeed : Prop :=
  ∀ c : Channel, ∃ t, exec (.selNoise c) State.reset = .next t ∧ t.lfsr = State.reset.lfsr ∧
    t.readWsel c = .noise ∧ ∀ d : Channel, t.readLatch d = 0#8

/-- 00_scope.md R7. The seed is never zero, a configuration with seed zero is refused, and every other seed has one. -/
def Obligations.SeedIsNeverZero : Prop :=
  Config.lfsrSeed ≠ 0#16 ∧ Config.indexOfSeed? 0#16 = none ∧
  ∀ v : Lfsr, v ≠ 0#16 → ∃ i, Config.indexOfSeed? v = some i ∧ Config.seedOfIndex i = v

/-- 70_reset_and_hazards.md R82, 93 I5; how edges before the first reset are taken is log entry 8's DESIGN CHOICE.
From power-on, edges without a command pass and the first reset gives the reset state; a command before it is
refused; no state exists while neither has come. -/
def Obligations.PowerOnWaitsForAReset : Prop :=
  ∀ pre : List Edge, (∀ e ∈ pre, e.rst = false ∧ e.cmdValid = false) →
    powerOn pre = .refused .noResetYet ∧
    (∀ (v : Bool) (w : Word) (es : List Edge),
      powerOn (pre ++ ⟨true, v, w⟩ :: es) = .next { State.reset with inputs := es }) ∧
    (∀ (w : Word) (es : List Edge),
      powerOn (pre ++ ⟨false, true, w⟩ :: es) = .refused .commandBeforeReset)

/-! ### The waveform functions and the LFSR -/

/-- 40_waveforms.md R48. The triangle's two slopes, its range, its one peak, and the corner values. -/
def Obligations.TriangleSlopes : Prop :=
  (∀ p8 : WavePhase, (p8.toNat < 128 → tri p8 = (p8.toNat : Int) - 64) ∧
    (128 ≤ p8.toNat → tri p8 = (255 - (p8.toNat : Int)) - 63) ∧
    -64 ≤ tri p8 ∧ tri p8 ≤ 64 ∧ (tri p8 = 64 ↔ p8 = 128#8)) ∧
  tri 0 = -64 ∧ tri 127 = 63 ∧ tri 128 = 64 ∧ tri 129 = 63 ∧ tri 255 = -63 ∧ tri 200 = -8

/-- 40_waveforms.md R49. The pulse's two levels, the unsigned comparison, and the corner widths. -/
def Obligations.PulseLevels : Prop :=
  (∀ (p8 : WavePhase) (pw : PulseWidth),
    pulse p8 pw = if p8.toNat < pw.toNat then -64 else 63) ∧
  (∀ p8 : WavePhase, pulse p8 0 = 63) ∧
  (∀ p8 : WavePhase, pulse p8 255 = if p8 = 255 then 63 else -64) ∧
  (∀ p8 : WavePhase, pulse p8 128 = if p8.toNat ≤ 127 then -64 else 63) ∧
  pulse 0x7F 0x80 = -64 ∧ pulse 0x80 0x80 = 63

/-- The pulse's duty: of the 256 wave phases, exactly `pw` give -64. The spec marks it as its own inference: "Over the
256 values of `p8`, exactly `pw` give -64 [derived: from this rule]" (40_waveforms.md R49). -/
def Obligations.PulseDuty : Prop :=
  ∀ pw : PulseWidth, (List.range 256).countP (fun n => decide (pulse (BitVec.ofNat 8 n) pw = -64)) = pw.toNat

/-- 40_waveforms.md R50. The sawtooth's ramp: each value of [-64, 63] at two consecutive wave phases, with the reset
from 63 to -64. -/
def Obligations.SawtoothRamp : Prop :=
  (∀ p8 : WavePhase, saw p8 = ((p8.toNat / 2 : Nat) : Int) - 64 ∧ -64 ≤ saw p8 ∧ saw p8 ≤ 63) ∧
  (∀ k : Nat, k < 128 →
    saw (BitVec.ofNat 8 (2 * k)) = (k : Int) - 64 ∧ saw (BitVec.ofNat 8 (2 * k + 1)) = (k : Int) - 64) ∧
  saw 0 = -64 ∧ saw 1 = -64 ∧ saw 254 = 63 ∧ saw 255 = 63 ∧ saw 0 - saw 255 = -127 ∧ saw 0x80 = 0

/-- 40_waveforms.md R51. One step of the right-shifting Galois LFSR, and its corner values. The spec marks the form of
the step "[from general knowledge, not in source]" (log entry 9). -/
def Obligations.LfsrStepIsGalois : Prop :=
  (∀ l : Lfsr, (l.getLsbD 0 = false → lfsrStep l = l >>> 1) ∧
    (l.getLsbD 0 = true → lfsrStep l = (l >>> 1) ^^^ 0xB400#16)) ∧
  lfsrStep 0x0001#16 = 0xB400#16 ∧ lfsrStep 0x0000#16 = 0x0000#16 ∧ lfsrStep 0xFFFF#16 = 0xCBFF#16 ∧
  lfsrStep 0xACE1#16 = 0xE270#16

/-- 40_waveforms.md R52. The noise value is the top 7 bits as a signed number; the other bits never matter. -/
def Obligations.NoiseValueIsTheTopBits : Prop :=
  (∀ l : Lfsr, (noiseValue l).toInt = (l.extractLsb' 9 7).toInt ∧
    -64 ≤ (noiseValue l).toInt ∧ (noiseValue l).toInt ≤ 63) ∧
  (∀ l m : Lfsr, (∀ k, 9 ≤ k → l.getLsbD k = m.getLsbD k) → noiseValue l = noiseValue m) ∧
  noiseValue 0x7E00#16 = 63#8 ∧ noiseValue 0x7FFF#16 = 63#8 ∧ (noiseValue 0x8000#16).toInt = -64 ∧
  (noiseValue 0x81FF#16).toInt = -64 ∧ (noiseValue 0xFFFF#16).toInt = -1 ∧ noiseValue 0xE270#16 = 0xF1#8

/-- 40_waveforms.md R53. The refresh threshold, and the same test on the phase's top two bits. -/
def Obligations.RefreshThreshold : Prop :=
  (∀ phase : Phase, (refreshDue phase = true ↔ 0x4000 ≤ phase.toNat) ∧
    (refreshDue phase = true ↔ phase.extractLsb' 14 2 ≠ 0#2)) ∧
  refreshDue 0x3FFF = false ∧ refreshDue 0x4000 = true ∧ refreshDue 0x8000 = true ∧
  refreshDue 0xFFFF = true ∧ refreshDue 0x4800 = true ∧ (0x4800#16 - 0x4000#16 : Phase) = 0x0800#16

/-- 40_waveforms.md R55. Every waveform value fits the 8-bit sample exactly, in its waveform's range; only the
triangle at 128 leaves [-64, 63]. The spec's own inference: "[derived: from rules R48, R49, R50 and R52]". -/
def Obligations.WaveValuesAreExact : Prop :=
  (∀ p8 : WavePhase, -64 ≤ tri p8 ∧ tri p8 ≤ 64) ∧
  (∀ (p8 : WavePhase) (pw : PulseWidth), pulse p8 pw = -64 ∨ pulse p8 pw = 63) ∧
  (∀ p8 : WavePhase, -64 ≤ saw p8 ∧ saw p8 ≤ 63) ∧
  (∀ l : Lfsr, -64 ≤ (noiseValue l).toInt ∧ (noiseValue l).toInt ≤ 63) ∧
  (∀ (w : Waveform) (p8 : WavePhase) (pw : PulseWidth) (v : Int), wave w p8 pw = some v →
    (bits8 v).toInt = v ∧ (¬ v ≤ 63 → w = .tri ∧ p8 = 128#8))

/-- 40_waveforms.md R56. The triangle is continuous (also around the phase range), antisymmetric by half a period,
and of mean zero. The spec's own inference: "[derived: from rule R48, by evaluation over all 256 operands]". -/
def Obligations.TriangleLaws : Prop :=
  (∀ p8 : WavePhase, |tri (p8 + 1) - tri p8| = 1 ∧ tri (p8 + 128) = -tri p8) ∧
  ((List.range 256).map fun n => tri (BitVec.ofNat 8 n)).sum = 0

/-- 40_waveforms.md R57. The step keeps a non-zero register non-zero, and is one-to-one. The spec's own inference:
"[derived: from rule R51]". -/
def Obligations.LfsrStepNonzeroAndOneToOne : Prop :=
  (∀ l : Lfsr, l ≠ 0#16 → lfsrStep l ≠ 0#16) ∧ (∀ l m : Lfsr, lfsrStep l = lfsrStep m → l = m)

/-- 40_waveforms.md R58. From any non-zero value the LFSR returns after exactly 65535 steps and visits every non-zero
value on the way. The spec's own inference: "[derived: from rule R51, by iterating it from 0xACE1 until it returned
...]". -/
def Obligations.LfsrHasFullPeriod : Prop :=
  ∀ l : Lfsr, l ≠ 0#16 →
    lfsrSteps 65535 l = l ∧ (∀ k, 0 < k → k < 65535 → lfsrSteps k l ≠ l) ∧
    ∀ m : Lfsr, m ≠ 0#16 → ∃ k, k < 65535 ∧ lfsrSteps k l = m

/-! ### Decoding -/

/-- 95_test_vectors.md section 2.7, from 30_encoding.md R40: a few words, each written out, and what they are. -/
def Obligations.SpecWordsDecode : Prop :=
  decode 0x00000000#32 = .command .nop ∧
  decode 0xFFFFFF31#32 = .command (.sample 3 0xFFFF#16 0xFF#8) ∧
  decode 0x12345631#32 = .command (.sample 3 0x1234#16 0x56#8) ∧
  decode 0x00000002#32 = .command (.selTri 0) ∧
  decode 0x00000062#32 = .command (.selPulse 2) ∧
  decode 0x000000B2#32 = .command (.selSaw 3) ∧
  decode 0x000000C2#32 = .command (.selNoise 0) ∧
  decode 0x00000033#32 = .command (.chrst 3)

/-- 30_encoding.md R40, R44. Decoding the word of any well-formed command gives it back. -/
def Obligations.DecodeUndoesEncode : Prop :=
  ∀ i : Instr, i.wellFormed = true → decode (encode i) = .command i

/-- 30_encoding.md R40, R44. A word that decodes to a command is that command's word: no command has two words. -/
def Obligations.EveryCommandHasOneWord : Prop :=
  ∀ (w : Word) (i : Instr), decode w = .command i → encode i = w

/-- 30_encoding.md R40. Decoding is the opcode table: a word is ILLEGAL when no row matches, and otherwise exactly
one row matches and gives the command. -/
def Obligations.DecodeFollowsTheOpcodeTable : Prop :=
  ∀ w : Word,
    (matchingRows w = [] ∧ ∃ why, decode w = .illegal why) ∨
    (∃ r, matchingRows w = [r] ∧ decode w = .command (r.build w))

/-- 30_encoding.md R41. A word is ILLEGAL exactly when one of the rule's five clauses holds, and accepting it sets
`err` and changes nothing else but the response. -/
def Obligations.IllegalWordsExactly : Prop :=
  (∀ w : Word, (∃ why, decode w = .illegal why) ↔
    (w.extractLsb' 2 2 ≠ 0#2 ∨
     (w.extractLsb' 0 2 = 0#2 ∧ w.extractLsb' 2 30 ≠ 0#30) ∨
     (w.extractLsb' 0 2 = 1#2 ∧ w.extractLsb' 6 2 ≠ 0#2) ∨
     (w.extractLsb' 0 2 = 2#2 ∧ w.extractLsb' 8 24 ≠ 0#24) ∨
     (w.extractLsb' 0 2 = 3#2 ∧ w.extractLsb' 6 26 ≠ 0#26))) ∧
  (∀ (w : Word) (s : State), (∃ why, decode w = .illegal why) →
    acceptWord w s = .next { s with err := true, rsp := ⟨true, 0#8, 0#16, false, true⟩ })

/-- 30_encoding.md R44, R45. The table of R44: with `c < 4`, `phase < 2^16` and `pw < 2^8` each line is the one word of
its command, laid out as its row says; `.word` gives its word; and any other line in range, a pseudo-instruction too,
assembles to words that decode to the commands it expands to. The last clauses, that a line with a number out of range
assembles to nothing, are the model's choice (log entry 11, DESIGN CHOICE): the rules give the ranges and say nothing
of such a line. -/
def Obligations.AssembledWordsDecode : Prop :=
  assemble .nop = some [encode .nop] ∧ encode .nop = 0x00000000#32 ∧
  (∀ (c phase pw : Nat) (hc : c < 4), phase < 2 ^ 16 → pw < 2 ^ 8 →
    assemble (.sample c phase pw) = some [encode (.sample ⟨c, hc⟩ (BitVec.ofNat 16 phase) (BitVec.ofNat 8 pw))] ∧
    encode (.sample ⟨c, hc⟩ (BitVec.ofNat 16 phase) (BitVec.ofNat 8 pw)) =
      BitVec.ofNat 16 phase ++ BitVec.ofNat 8 pw ++ 0b00#2 ++ BitVec.ofNat 2 c ++ 0b00#2 ++ 0b01#2) ∧
  (∀ (c : Nat) (hc : c < 4),
    (assemble (.selForm .tri c) = some [encode (.selTri ⟨c, hc⟩)] ∧
      encode (.selTri ⟨c, hc⟩) = 0x000000#24 ++ 0b00#2 ++ BitVec.ofNat 2 c ++ 0b00#2 ++ 0b10#2) ∧
    (assemble (.selForm .pulse c) = some [encode (.selPulse ⟨c, hc⟩)] ∧
      encode (.selPulse ⟨c, hc⟩) = 0x000000#24 ++ 0b01#2 ++ BitVec.ofNat 2 c ++ 0b00#2 ++ 0b10#2) ∧
    (assemble (.selForm .saw c) = some [encode (.selSaw ⟨c, hc⟩)] ∧
      encode (.selSaw ⟨c, hc⟩) = 0x000000#24 ++ 0b10#2 ++ BitVec.ofNat 2 c ++ 0b00#2 ++ 0b10#2) ∧
    (assemble (.selForm .noise c) = some [encode (.selNoise ⟨c, hc⟩)] ∧
      encode (.selNoise ⟨c, hc⟩) = 0x000000#24 ++ 0b11#2 ++ BitVec.ofNat 2 c ++ 0b00#2 ++ 0b10#2) ∧
    (assemble (.chrst c) = some [encode (.chrst ⟨c, hc⟩)] ∧
      encode (.chrst ⟨c, hc⟩) = 0x000000#24 ++ 0b00#2 ++ BitVec.ofNat 2 c ++ 0b00#2 ++ 0b11#2)) ∧
  (∀ w : Nat, w < 2 ^ 32 → assemble (.word w) = some [BitVec.ofNat 32 w]) ∧
  (∀ line : AsmLine, line.wellFormed = true → (∀ w, line ≠ .word w) →
    ∃ ws, assemble line = some ws ∧ ws.map decode = (expandLine line).map Decoded.command) ∧
  (∀ c phase pw : Nat, 4 ≤ c ∨ 2 ^ 16 ≤ phase ∨ 2 ^ 8 ≤ pw → assemble (.sample c phase pw) = none) ∧
  (∀ c phase : Nat, 4 ≤ c ∨ 2 ^ 16 ≤ phase → assemble (.sampleNoWidth c phase) = none) ∧
  (∀ c : Nat, 4 ≤ c → assemble (.chrst c) = none ∧
    ∀ wave : Waveform, assemble (.selForm wave c) = none ∧ assemble (.sel c wave) = none) ∧
  (∀ p0 p1 p2 p3 w0 w1 w2 w3 : Nat,
    2 ^ 16 ≤ p0 ∨ 2 ^ 16 ≤ p1 ∨ 2 ^ 16 ≤ p2 ∨ 2 ^ 16 ≤ p3 ∨
      2 ^ 8 ≤ w0 ∨ 2 ^ 8 ≤ w1 ∨ 2 ^ 8 ≤ w2 ∨ 2 ^ 8 ≤ w3 →
    assemble (.tick p0 p1 p2 p3 w0 w1 w2 w3) = none) ∧
  (∀ w : Nat, 2 ^ 32 ≤ w → assemble (.word w) = none)

/-- 30_encoding.md R45, 70_reset_and_hazards.md R87. The pseudo-instructions are their expansions, and TICK is the
four SAMPLEs in channel order. -/
def Obligations.PseudoInstructionsExpand : Prop :=
  (∀ (c : Nat) (w : Waveform), assemble (.sel c w) = assemble (.selForm w c)) ∧
  (∀ c phase : Nat, assemble (.sampleNoWidth c phase) = assemble (.sample c phase 0)) ∧
  (∀ p0 p1 p2 p3 w0 w1 w2 w3 : Nat,
    p0 < 2 ^ 16 → p1 < 2 ^ 16 → p2 < 2 ^ 16 → p3 < 2 ^ 16 →
    w0 < 2 ^ 8 → w1 < 2 ^ 8 → w2 < 2 ^ 8 → w3 < 2 ^ 8 →
    (do
      let a ← assemble (.sample 0 p0 w0)
      let b ← assemble (.sample 1 p1 w1)
      let c ← assemble (.sample 2 p2 w2)
      let d ← assemble (.sample 3 p3 w3)
      pure (a ++ b ++ c ++ d)) = assemble (.tick p0 p1 p2 p3 w0 w1 w2 w3) ∧
    keepsTickOrder 0 (expandLine (.tick p0 p1 p2 p3 w0 w1 w2 w3)) = true)

/-! ### Rules about the whole machine -/

/-- 60_exceptions.md R72. No decoded command can fail: from every state it gives a next state, in which neither `err`
nor the ports' coming edges have changed and the response reports no error. Nor does any step fail. -/
def Obligations.NoCommandFails : Prop :=
  (∀ (i : Instr) (s : State), ∃ t, exec i s = .next t ∧ t.err = s.err ∧ t.inputs = s.inputs ∧
    t.rsp.valid = true ∧ t.rsp.err = false) ∧
  (∀ s : State, ∃ t, step s = .next t)

/-- 30_encoding.md R46. The response of every accepted word, by the rule's table. -/
def Obligations.ResponsesFollowTheTable : Prop :=
  (∀ (i : Instr) (s t : State), exec i s = .next t → (∀ c phase pw, i ≠ .sample c phase pw) →
    t.rsp = ⟨true, 0#8, 0#16, false, false⟩) ∧
  (∀ (c : Channel) (phase : Phase) (pw : PulseWidth) (s : State), ∃ t,
    exec (.sample c phase pw) s = .next t ∧ t.rsp.err = false ∧
    (s.readWsel c ≠ .noise → ∃ v, wave (s.readWsel c) (phase.extractLsb' 8 8) pw = some v ∧
      t.rsp.sample.toInt = v ∧ t.rsp.phase = phase) ∧
    (s.readWsel c = .noise → t.rsp.sample = t.readLatch c ∧
      t.rsp.phase = if phase.toNat < 0x4000 then phase else phase - 0x4000#16) ∧
    (t.rsp.refresh = true ↔ s.readWsel c = .noise ∧ 0x4000 ≤ phase.toNat) ∧
    t.lfsr = if t.rsp.refresh then lfsrStep s.lfsr else s.lfsr) ∧
  (∀ (w : Word) (why : Illegal) (s : State), decode w = .illegal why → ∃ t, acceptWord w s = .next t ∧
    t.outputs = ⟨true, 0#8, 0#16, false, true, true⟩)

/-- 10_state.md R13, R24. Every step, whatever the ports carry, keeps the LFSR non-zero and every latch in
[-64, 63]. The spec's own inferences: "[derived: from 00_scope.md rule R7, rule R16 and 40_waveforms.md rule R57]" and
"[derived: from 40_waveforms.md rule R52 and the reset value 0 in rule R16]". -/
def Obligations.StepKeepsInv : Prop := ∀ s t : State, s.Inv → step s = .next t → t.Inv

/-- 10_state.md R13, R16, R24: the reset state meets the invariant. -/
def Obligations.ResetMeetsInv : Prop := State.reset.Inv

/-- 10_state.md R12. `lfsr` is written only by a noise refresh, by a switch onto NOISE, and by reset: a step in which
none of them happens leaves it alone, and each writes the value its rule gives. -/
def Obligations.LfsrHasThreeWriters : Prop :=
  ∀ s t : State, step s = .next t →
    t.lfsr =
      if s.takeEdge.1.rst then Config.lfsrSeed
      else match s.takeEdge.1.executes? with
        | some i =>
          if refreshes i s then lfsrStep s.lfsr
          else if switchesOntoNoise i s then Config.lfsrSeed else s.lfsr
        | none => s.lfsr

/-- 10_state.md R13. `latch[c]` is written only by a noise refresh on channel c, by CHRST on channel c, and by
reset. -/
def Obligations.LatchHasThreeWriters : Prop :=
  ∀ (s t : State) (c : Channel), step s = .next t → t.readLatch c ≠ s.readLatch c →
    (s.takeEdge.1.rst = true ∧ t.readLatch c = 0#8) ∨
    (s.takeEdge.1.executes? = some (.chrst c) ∧ t.readLatch c = 0#8) ∨
    (∃ phase pw, s.takeEdge.1.executes? = some (.sample c phase pw) ∧ s.readWsel c = .noise ∧
      0x4000 ≤ phase.toNat ∧ t.readLatch c = noiseValue (lfsrStep s.lfsr))

/-- 10_state.md R14. `wsel[c]` is written only by SEL on channel c, by CHRST on channel c, and by reset; the value is
the one the command names. -/
def Obligations.SelectorWriters : Prop :=
  ∀ (s t : State) (c : Channel), step s = .next t →
    t.readWsel c =
      if s.takeEdge.1.rst then .tri
      else match s.takeEdge.1.executes? with
        | some (.selTri d) => if d = c then .tri else s.readWsel c
        | some (.selPulse d) => if d = c then .pulse else s.readWsel c
        | some (.selSaw d) => if d = c then .saw else s.readWsel c
        | some (.selNoise d) => if d = c then .noise else s.readWsel c
        | some (.chrst d) => if d = c then .tri else s.readWsel c
        | some .nop => s.readWsel c
        | some (.sample _ _ _) => s.readWsel c
        | none => s.readWsel c

/-- 10_state.md R15. `err` is set by an illegal word, cleared by reset, and changed by nothing else. -/
def Obligations.ErrIsStickyUntilReset : Prop :=
  ∀ s t : State, step s = .next t →
    t.err = (!s.takeEdge.1.rst && (s.err || s.takeEdge.1.isIllegal))

/-- 10_state.md R21. The response bit `refresh` is 1 exactly after a SAMPLE that stepped the LFSR. -/
def Obligations.RefreshBitMarksTheLfsrStep : Prop :=
  ∀ s t : State, step s = .next t →
    (t.rsp.refresh = true ↔ ∃ i, s.takeEdge.1.executes? = some i ∧ refreshes i s = true) ∧
    (t.rsp.refresh = true → t.lfsr = lfsrStep s.lfsr)

/-- 10_state.md R19. Channels are independent: a command on channel c writes only entry c of each file, and what it
answers and writes depends only on entry c of each file and on the shared LFSR. -/
def Obligations.ChannelsAreIndependent : Prop :=
  ∀ (i : Instr) (c : Channel), channelOf? i = some c →
    (∀ (s t : State) (d : Channel), exec i s = .next t → d ≠ c →
      t.readLatch d = s.readLatch d ∧ t.readWsel d = s.readWsel d) ∧
    (∀ s₁ s₂ t₁ t₂ : State, s₁.lfsr = s₂.lfsr → s₁.readLatch c = s₂.readLatch c →
      s₁.readWsel c = s₂.readWsel c → exec i s₁ = .next t₁ → exec i s₂ = .next t₂ →
      t₁.rsp = t₂.rsp ∧ t₁.lfsr = t₂.lfsr ∧ t₁.readLatch c = t₂.readLatch c ∧
      t₁.readWsel c = t₂.readWsel c)

/-- 20_memory.md R28. A SAMPLE that does not refresh is idempotent; a refresh is not, and repeating it steps the LFSR
again. The spec's own inference: "[derived: from 41_commands.md rules R60 to R68 and 60_exceptions.md rule R74]". -/
def Obligations.OnlyARefreshIsNotIdempotent : Prop :=
  ∀ (c : Channel) (phase : Phase) (pw : PulseWidth) (s : State),
    (refreshes (.sample c phase pw) s = false →
      ∃ t, exec (.sample c phase pw) s = .next t ∧ exec (.sample c phase pw) t = .next t ∧
        t = { s with rsp := t.rsp }) ∧
    (refreshes (.sample c phase pw) s = true →
      ∃ t u, exec (.sample c phase pw) s = .next t ∧ exec (.sample c phase pw) t = .next u ∧
        t.lfsr = lfsrStep s.lfsr ∧ u.lfsr = lfsrStep (lfsrStep s.lfsr) ∧
        (s.lfsr ≠ 0#16 → u.lfsr ≠ t.lfsr))

/-! ### Runs -/

/-- 20_memory.md R30. A run over a sequence of edges is the sequential composition of the runs over its parts. -/
def Obligations.RunsCompose : Prop :=
  ∀ (xs ys : List Edge) (s : State),
    runEdges (xs ++ ys) s =
      match runEdges xs s with
      | .next t => runEdges ys t
      | .fault r => .fault r
      | .refused r => .refused r

/-- 60_exceptions.md R74. Over a run without reset from `err = 0`, `err = 0` at the end exactly when no illegal word
was sent. -/
def Obligations.ErrAtTheEndTellsIllegalWords : Prop :=
  ∀ (es : List Edge) (s : State), (∀ e ∈ es, e.rst = false) → s.err = false →
    ∃ t, runEdges es s = .next t ∧ (t.err = false ↔ ∀ e ∈ es, e.isIllegal = false)

/-- 41_commands.md R71. Of two refreshes on two NOISE channels the one accepted first gets the LFSR's next value and
the other the value after it, whichever channels and phases they are. The spec's own inference: "[derived: from rule
R63 and 20_memory.md rule R30]". -/
def Obligations.SharedLfsrServesInOrder : Prop :=
  ∀ (a b : Channel) (p q : Phase) (v w : PulseWidth) (s : State), a ≠ b →
    s.readWsel a = .noise → s.readWsel b = .noise → 0x4000 ≤ p.toNat → 0x4000 ≤ q.toNat →
      ∃ t u, exec (.sample a p v) s = .next t ∧ exec (.sample b q w) t = .next u ∧
        t.rsp.sample = noiseValue (lfsrStep s.lfsr) ∧
        u.rsp.sample = noiseValue (lfsrStep (lfsrStep s.lfsr)) ∧
        u.lfsr = lfsrStep (lfsrStep s.lfsr)

/-- 70_reset_and_hazards.md R90. Switching channel a onto NOISE restarts the noise of every other NOISE channel b:
its next refresh gives the first value after the seed, whatever came before. The spec's own inference: "[derived: from
41_commands.md rules R63 and R67]". -/
def Obligations.ReseedReachesEveryNoiseChannel : Prop :=
  ∀ (a b : Channel) (p : Phase) (v : PulseWidth) (s : State),
    s.readWsel a ≠ .noise → s.readWsel b = .noise → 0x4000 ≤ p.toNat →
      ∃ t u, exec (.selNoise a) s = .next t ∧ exec (.sample b p v) t = .next u ∧
        t.readLatch b = s.readLatch b ∧ u.rsp.sample = noiseValue (lfsrStep Config.lfsrSeed)

/-- 40_waveforms.md R58, 90_conflicts.md C2. Over any run without reset and without SEL.NOISE, the noise samples the
refreshes give, in order and over all channels, are the values of the LFSR's sequence from its value at the start,
and the LFSR ends where the sequence does. R58 is marked as the spec's own inference: "[derived: from rule R51, by
iterating it from 0xACE1 until it returned ...]". -/
def Obligations.NoiseIsTheLfsrSequence : Prop :=
  ∀ (es : List Edge) (s : State),
    (∀ e ∈ es, e.rst = false ∧ ∀ c, e.executes? ≠ some (.selNoise c)) →
      ∃ t, runEdges es s = .next t ∧
        t.lfsr = lfsrSteps ((replies es s).countP (·.refresh)) s.lfsr ∧
        ((replies es s).filter (·.refresh)).map (·.sample) =
          (List.range ((replies es s).countP (·.refresh))).map
            fun k => noiseValue (lfsrSteps (k + 1) s.lfsr)

/-! ### The obliging caller -/

/-- 41_commands.md R69. Noise pacing: a NOISE channel whose caller advances it by `f < QUARTER` each tick from a
stored phase below QUARTER refreshes `(ph_0 + N * f) / QUARTER` times in N ticks, keeps every stored phase below
QUARTER, never wraps an addition, and ends at the phase left over. The spec's own inference: "[derived: from rules R62
and R63 and 70_reset_and_hazards.md rule R86]". The caller is log entry 12's. -/
def Obligations.NoisePacing : Prop :=
  ∀ (n : Nat) (k : Caller) (s : State) (c : Channel),
    s.readWsel c = .noise → (k.freq.get c).toNat < 0x4000 → (k.phase.get c).toNat < 0x4000 →
      ∃ k' t, Caller.ticks n k s = .next (k', t) ∧
        (k'.phase.get c).toNat < 0x4000 ∧
        (k'.advanced c).toNat = (k'.phase.get c).toNat + (k.freq.get c).toNat ∧
        (k'.phase.get c).toNat = (k.phase.get c).toNat + n * (k.freq.get c).toNat
          - 0x4000 * (((k.phase.get c).toNat + n * (k.freq.get c).toNat) / 0x4000) ∧
        k'.refreshes c = k.refreshes c +
          ((k.phase.get c).toNat + n * (k.freq.get c).toNat) / 0x4000

/-- 41_commands.md R70. One tick of a NOISE channel at any frequency: it refreshes exactly when the advanced phase is
at or above QUARTER, once at most, and the stored phase then grows by `f - QUARTER` modulo 2^16. The spec's own inference:
"[derived: from rules R62 and R63]". The caller is log entry 12's. -/
def Obligations.NoiseTickAtAnyFrequency : Prop :=
  ∀ (k : Caller) (s : State) (c : Channel), s.readWsel c = .noise →
    ∃ k' t, Caller.tick k s = .next (k', t) ∧
      (0x4000 ≤ (k.phase.get c + k.freq.get c).toNat →
        k'.phase.get c = k.phase.get c + (k.freq.get c - 0x4000#16) ∧
        k'.refreshes c = k.refreshes c + 1) ∧
      ((k.phase.get c + k.freq.get c).toNat < 0x4000 →
        k'.phase.get c = k.phase.get c + k.freq.get c ∧ k'.refreshes c = k.refreshes c)

/-- 70_reset_and_hazards.md R86. A channel that is not NOISE has, after N ticks of frequency f, the phase
`(initial_phase + N*f) mod 2^16`, and it has never refreshed. The spec's own inference: "[derived: from 41_commands.md
rule R61]". The caller is log entry 12's. -/
def Obligations.TonePhaseAfterTicks : Prop :=
  ∀ (n : Nat) (k : Caller) (s : State) (c : Channel), s.readWsel c ≠ .noise →
    ∃ k' t, Caller.ticks n k s = .next (k', t) ∧
      (k'.phase.get c).toNat = ((k.phase.get c).toNat + n * (k.freq.get c).toNat) % 2 ^ 16 ∧
      k'.refreshes c = k.refreshes c ∧ t.readWsel c = s.readWsel c

/-- 70_reset_and_hazards.md R87, R88. The order the caller must keep holds exactly of the streams made of whole TICKs,
the SAMPLEs of channels 0, 1, 2, 3 with nothing between them, and of single other commands between ticks. So streams
that keep it can follow one another. -/
def Obligations.TickOrderIsWholeTicks : Prop :=
  (∀ is : List Instr, keepsTickOrder 0 is = true ↔
    ∃ blocks : List (List Instr), is = blocks.flatten ∧ ∀ b ∈ blocks,
      (∃ (p0 p1 p2 p3 : Phase) (w0 w1 w2 w3 : PulseWidth),
        b = [.sample 0 p0 w0, .sample 1 p1 w1, .sample 2 p2 w2, .sample 3 p3 w3]) ∨
      (∃ i : Instr, b = [i] ∧ ∀ c phase pw, i ≠ .sample c phase pw)) ∧
  (∀ is js : List Instr, keepsTickOrder 0 is = true → keepsTickOrder 0 js = true →
    keepsTickOrder 0 (is ++ js) = true)

/-- 70_reset_and_hazards.md R86, R87, R89. A tick of the caller is the machine's run over one whole TICK: from every
caller and state it completes, the four SAMPLEs carry each channel's advanced phase and pulse width in channel order,
the machine ends where that run ends, with the ports' coming edges as they were, and the caller has heard the run's
four responses. The caller is log entry 12's. -/
def Obligations.CallerTickRunsOneWholeTick : Prop :=
  ∀ (k : Caller) (s : State) (commands : List Instr),
    commands = [.sample 0 (k.advanced 0) (k.width.get 0), .sample 1 (k.advanced 1) (k.width.get 1),
      .sample 2 (k.advanced 2) (k.width.get 2), .sample 3 (k.advanced 3) (k.width.get 3)] →
    keepsTickOrder 0 commands = true ∧
    ∃ k' t, Caller.tick k s = .next (k', t) ∧
      runEdges (commands.map fun i => Edge.command (encode i)) s = .next (t.withInputs []) ∧ t.inputs = s.inputs ∧
      k'.heard = (([0, 1, 2, 3] : List Channel).zip
        (replies (commands.map fun i => Edge.command (encode i)) s)).reverse ++ k.heard
end

