-- ==== Sys2Proof/Laws/State.lean ====
section
/-! SUPPORT. One lemma per field per update of the state, and what reading a channel file after an update gives. -/

namespace Sys2Proof.Machine

/-! ### respond -/

@[simp] theorem State.respond_lfsr (s : State) (a : Sample) (p : Phase) (r : Bool) :
    (s.respond a p r).lfsr = s.lfsr := rfl

@[simp] theorem State.respond_latch (s : State) (a : Sample) (p : Phase) (r : Bool) :
    (s.respond a p r).latch = s.latch := rfl

@[simp] theorem State.respond_wsel (s : State) (a : Sample) (p : Phase) (r : Bool) :
    (s.respond a p r).wsel = s.wsel := rfl

@[simp] theorem State.respond_err (s : State) (a : Sample) (p : Phase) (r : Bool) :
    (s.respond a p r).err = s.err := rfl

@[simp] theorem State.respond_rsp (s : State) (a : Sample) (p : Phase) (r : Bool) :
    (s.respond a p r).rsp = Response.answer a p r := rfl

@[simp] theorem State.respond_inputs (s : State) (a : Sample) (p : Phase) (r : Bool) :
    (s.respond a p r).inputs = s.inputs := rfl

/-! ### writeLfsr -/

@[simp] theorem State.writeLfsr_lfsr (s : State) (l : Lfsr) :
    (s.writeLfsr l).lfsr = l := rfl

@[simp] theorem State.writeLfsr_latch (s : State) (l : Lfsr) :
    (s.writeLfsr l).latch = s.latch := rfl

@[simp] theorem State.writeLfsr_wsel (s : State) (l : Lfsr) :
    (s.writeLfsr l).wsel = s.wsel := rfl

@[simp] theorem State.writeLfsr_err (s : State) (l : Lfsr) :
    (s.writeLfsr l).err = s.err := rfl

@[simp] theorem State.writeLfsr_rsp (s : State) (l : Lfsr) :
    (s.writeLfsr l).rsp = s.rsp := rfl

@[simp] theorem State.writeLfsr_inputs (s : State) (l : Lfsr) :
    (s.writeLfsr l).inputs = s.inputs := rfl

/-! ### writeLatch -/

@[simp] theorem State.writeLatch_lfsr (s : State) (c : Channel) (v : Sample) :
    (s.writeLatch c v).lfsr = s.lfsr := rfl

@[simp] theorem State.writeLatch_latch (s : State) (c : Channel) (v : Sample) :
    (s.writeLatch c v).latch = s.latch.set c.val v := rfl

@[simp] theorem State.writeLatch_wsel (s : State) (c : Channel) (v : Sample) :
    (s.writeLatch c v).wsel = s.wsel := rfl

@[simp] theorem State.writeLatch_err (s : State) (c : Channel) (v : Sample) :
    (s.writeLatch c v).err = s.err := rfl

@[simp] theorem State.writeLatch_rsp (s : State) (c : Channel) (v : Sample) :
    (s.writeLatch c v).rsp = s.rsp := rfl

@[simp] theorem State.writeLatch_inputs (s : State) (c : Channel) (v : Sample) :
    (s.writeLatch c v).inputs = s.inputs := rfl

/-! ### writeWsel -/

@[simp] theorem State.writeWsel_lfsr (s : State) (c : Channel) (w : Waveform) :
    (s.writeWsel c w).lfsr = s.lfsr := rfl

@[simp] theorem State.writeWsel_latch (s : State) (c : Channel) (w : Waveform) :
    (s.writeWsel c w).latch = s.latch := rfl

@[simp] theorem State.writeWsel_wsel (s : State) (c : Channel) (w : Waveform) :
    (s.writeWsel c w).wsel = s.wsel.set c.val w := rfl

@[simp] theorem State.writeWsel_err (s : State) (c : Channel) (w : Waveform) :
    (s.writeWsel c w).err = s.err := rfl

@[simp] theorem State.writeWsel_rsp (s : State) (c : Channel) (w : Waveform) :
    (s.writeWsel c w).rsp = s.rsp := rfl

@[simp] theorem State.writeWsel_inputs (s : State) (c : Channel) (w : Waveform) :
    (s.writeWsel c w).inputs = s.inputs := rfl

/-! ### raiseIllegalCommand -/

@[simp] theorem State.raiseIllegalCommand_lfsr (s : State) :
    (s.raiseIllegalCommand).lfsr = s.lfsr := rfl

@[simp] theorem State.raiseIllegalCommand_latch (s : State) :
    (s.raiseIllegalCommand).latch = s.latch := rfl

@[simp] theorem State.raiseIllegalCommand_wsel (s : State) :
    (s.raiseIllegalCommand).wsel = s.wsel := rfl

@[simp] theorem State.raiseIllegalCommand_err (s : State) :
    (s.raiseIllegalCommand).err = true := rfl

@[simp] theorem State.raiseIllegalCommand_rsp (s : State) :
    (s.raiseIllegalCommand).rsp = Response.illegal := rfl

@[simp] theorem State.raiseIllegalCommand_inputs (s : State) :
    (s.raiseIllegalCommand).inputs = s.inputs := rfl

/-! ### idle -/

@[simp] theorem State.idle_lfsr (s : State) :
    (s.idle).lfsr = s.lfsr := rfl

@[simp] theorem State.idle_latch (s : State) :
    (s.idle).latch = s.latch := rfl

@[simp] theorem State.idle_wsel (s : State) :
    (s.idle).wsel = s.wsel := rfl

@[simp] theorem State.idle_err (s : State) :
    (s.idle).err = s.err := rfl

@[simp] theorem State.idle_rsp (s : State) :
    (s.idle).rsp = Response.quiet := rfl

@[simp] theorem State.idle_inputs (s : State) :
    (s.idle).inputs = s.inputs := rfl

/-! ### applyReset -/

@[simp] theorem State.applyReset_lfsr (s : State) :
    (s.applyReset).lfsr = Config.lfsrSeed := rfl

@[simp] theorem State.applyReset_latch (s : State) :
    (s.applyReset).latch = Vector.replicate 4 0#8 := rfl

@[simp] theorem State.applyReset_wsel (s : State) :
    (s.applyReset).wsel = Vector.replicate 4 .tri := rfl

@[simp] theorem State.applyReset_err (s : State) :
    (s.applyReset).err = false := rfl

@[simp] theorem State.applyReset_rsp (s : State) :
    (s.applyReset).rsp = Response.quiet := rfl

@[simp] theorem State.applyReset_inputs (s : State) :
    (s.applyReset).inputs = s.inputs := rfl

/-! ### withInputs -/

@[simp] theorem State.withInputs_lfsr (s : State) (es : List Edge) :
    (s.withInputs es).lfsr = s.lfsr := rfl

@[simp] theorem State.withInputs_latch (s : State) (es : List Edge) :
    (s.withInputs es).latch = s.latch := rfl

@[simp] theorem State.withInputs_wsel (s : State) (es : List Edge) :
    (s.withInputs es).wsel = s.wsel := rfl

@[simp] theorem State.withInputs_err (s : State) (es : List Edge) :
    (s.withInputs es).err = s.err := rfl

@[simp] theorem State.withInputs_rsp (s : State) (es : List Edge) :
    (s.withInputs es).rsp = s.rsp := rfl

@[simp] theorem State.withInputs_inputs (s : State) (es : List Edge) :
    (s.withInputs es).inputs = es := rfl

/-! ### The channel files -/

theorem State.readLatch_eq (s : State) (c : Channel) : s.readLatch c = s.latch.get c := rfl

theorem State.readWsel_eq (s : State) (c : Channel) : s.readWsel c = s.wsel.get c := rfl

/-- A latch read after a write: the written entry is the new value, every other entry is as before. -/
@[simp] theorem State.readLatch_writeLatch (s : State) (c d : Channel) (v : Sample) :
    (s.writeLatch c v).readLatch d = if c = d then v else s.readLatch d := by
  simp [State.readLatch, State.writeLatch, Vector.get_eq_getElem, Vector.getElem_set, Fin.ext_iff]

/-- A selector read after a write: the written entry is the new value, every other entry is as before. -/
@[simp] theorem State.readWsel_writeWsel (s : State) (c d : Channel) (w : Waveform) :
    (s.writeWsel c w).readWsel d = if c = d then w else s.readWsel d := by
  simp [State.readWsel, State.writeWsel, Vector.get_eq_getElem, Vector.getElem_set, Fin.ext_iff]

@[simp] theorem State.readLatch_respond (s : State) (a : Sample) (p : Phase) (r : Bool) (d : Channel) :
    (s.respond a p r).readLatch d = s.readLatch d := rfl

@[simp] theorem State.readWsel_respond (s : State) (a : Sample) (p : Phase) (r : Bool) (d : Channel) :
    (s.respond a p r).readWsel d = s.readWsel d := rfl

@[simp] theorem State.readLatch_writeLfsr (s : State) (l : Lfsr) (d : Channel) :
    (s.writeLfsr l).readLatch d = s.readLatch d := rfl

@[simp] theorem State.readWsel_writeLfsr (s : State) (l : Lfsr) (d : Channel) :
    (s.writeLfsr l).readWsel d = s.readWsel d := rfl

@[simp] theorem State.readWsel_writeLatch (s : State) (c : Channel) (v : Sample) (d : Channel) :
    (s.writeLatch c v).readWsel d = s.readWsel d := rfl

@[simp] theorem State.readLatch_writeWsel (s : State) (c : Channel) (w : Waveform) (d : Channel) :
    (s.writeWsel c w).readLatch d = s.readLatch d := rfl

@[simp] theorem State.readLatch_raiseIllegalCommand (s : State) (d : Channel) :
    (s.raiseIllegalCommand).readLatch d = s.readLatch d := rfl

@[simp] theorem State.readWsel_raiseIllegalCommand (s : State) (d : Channel) :
    (s.raiseIllegalCommand).readWsel d = s.readWsel d := rfl

@[simp] theorem State.readLatch_idle (s : State) (d : Channel) :
    (s.idle).readLatch d = s.readLatch d := rfl

@[simp] theorem State.readWsel_idle (s : State) (d : Channel) :
    (s.idle).readWsel d = s.readWsel d := rfl

@[simp] theorem State.readLatch_applyReset (s : State) (d : Channel) :
    (s.applyReset).readLatch d = 0#8 := by
  simp [State.readLatch, Vector.get_eq_getElem]

@[simp] theorem State.readWsel_applyReset (s : State) (d : Channel) :
    (s.applyReset).readWsel d = .tri := by
  simp [State.readWsel, Vector.get_eq_getElem]

@[simp] theorem State.readLatch_withInputs (s : State) (es : List Edge) (d : Channel) :
    (s.withInputs es).readLatch d = s.readLatch d := rfl

@[simp] theorem State.readWsel_withInputs (s : State) (es : List Edge) (d : Channel) :
    (s.withInputs es).readWsel d = s.readWsel d := rfl

/-- Every latch is 0 after reset. -/
@[simp] theorem State.readLatch_reset (d : Channel) : State.reset.readLatch d = 0#8 := by
  simp [State.readLatch, State.reset, Vector.get_eq_getElem]

/-- Every selector is TRI after reset. -/
@[simp] theorem State.readWsel_reset (d : Channel) : State.reset.readWsel d = .tri := by
  simp [State.readWsel, State.reset, Vector.get_eq_getElem]

end Sys2Proof.Machine
end

