-- ==== Sys2Proof/Laws/Step.lean ====
section
/-! SUPPORT. What each meaning and each shared operation can do, said once: the provers cite these and unfold
neither `exec` nor `step`. -/

namespace Sys2Proof.Machine

/-! ### The meanings -/

/-- Everything SAMPLE can do: a tone, a held noise sample, or a refresh. -/
theorem execSample_cases {c : Channel} {phase : Phase} {pw : PulseWidth} {s t : State}
    (h : execSample c phase pw s = .next t) :
    (∃ v, wave (s.readWsel c) (wavePhase phase) pw = some v ∧ t = s.respond (bits8 v) phase false) ∨
    (s.readWsel c = .noise ∧ refreshDue phase = false ∧ t = s.noiseHold c phase) ∨
    (s.readWsel c = .noise ∧ refreshDue phase = true ∧ t = s.noiseRefresh c phase) := by
  unfold execSample at h
  cases hw : s.readWsel c <;> simp only [hw, wave] at h ⊢
  case noise =>
    cases hd : refreshDue phase <;> simp only [hd, Bool.false_eq_true, if_true, if_false] at h <;>
      cases h <;> simp
  all_goals cases h; simp

/-- Reading back a refresh's latch. -/
theorem State.noiseRefresh_readLatch (s : State) (c d : Channel) (phase : Phase) :
    (s.noiseRefresh c phase).readLatch d =
      if c = d then noiseValue (lfsrStep s.lfsr) else s.readLatch d := by
  simp [State.noiseRefresh]

@[simp] theorem State.noiseRefresh_lfsr (s : State) (c : Channel) (phase : Phase) :
    (s.noiseRefresh c phase).lfsr = lfsrStep s.lfsr := rfl

@[simp] theorem State.noiseRefresh_readWsel (s : State) (c d : Channel) (phase : Phase) :
    (s.noiseRefresh c phase).readWsel d = s.readWsel d := rfl

@[simp] theorem State.noiseRefresh_err (s : State) (c : Channel) (phase : Phase) :
    (s.noiseRefresh c phase).err = s.err := rfl

@[simp] theorem State.noiseRefresh_inputs (s : State) (c : Channel) (phase : Phase) :
    (s.noiseRefresh c phase).inputs = s.inputs := rfl

@[simp] theorem State.noiseRefresh_rsp (s : State) (c : Channel) (phase : Phase) :
    (s.noiseRefresh c phase).rsp =
      Response.answer (noiseValue (lfsrStep s.lfsr)) (refreshedPhase phase) true := rfl

/-- A switch onto NOISE gives the LFSR the seed; otherwise it keeps its value. -/
theorem State.reseedOnSwitch_lfsr (s : State) (c : Channel) :
    (s.reseedOnSwitch c).lfsr = if s.readWsel c = .noise then s.lfsr else Config.lfsrSeed := by
  unfold State.reseedOnSwitch
  by_cases h : s.readWsel c = .noise <;> simp [h]

/-- Nothing but the LFSR can change in a reseed. -/
theorem State.reseedOnSwitch_eq (s : State) (c : Channel) :
    s.reseedOnSwitch c = s.writeLfsr (s.reseedOnSwitch c).lfsr := by
  unfold State.reseedOnSwitch
  by_cases h : s.readWsel c = .noise <;> simp [h, State.writeLfsr]

/-- Every command gives a next state (60_exceptions.md R72). -/
theorem exec_next (i : Instr) (s : State) : ∃ t, exec i s = .next t := by
  cases i with
  | sample c phase pw =>
    show ∃ t, execSample c phase pw s = .next t
    unfold execSample
    split
    · exact ⟨_, rfl⟩
    · split <;> exact ⟨_, rfl⟩
  | nop => exact ⟨_, rfl⟩
  | selTri c => exact ⟨_, rfl⟩
  | selPulse c => exact ⟨_, rfl⟩
  | selSaw c => exact ⟨_, rfl⟩
  | selNoise c => exact ⟨_, rfl⟩
  | chrst c => exact ⟨_, rfl⟩

/-- Everything a command can do to the state: what `exec` answers, one disjunct per effect. -/
theorem exec_cases {i : Instr} {s t : State} (h : exec i s = .next t) :
    (i = .nop ∧ t = s.respond 0#8 0#16 false) ∨
    (∃ c phase pw v, i = .sample c phase pw ∧ wave (s.readWsel c) (wavePhase phase) pw = some v ∧
      t = s.respond (bits8 v) phase false) ∨
    (∃ c phase pw, i = .sample c phase pw ∧ s.readWsel c = .noise ∧ refreshDue phase = false ∧
      t = s.noiseHold c phase) ∨
    (∃ c phase pw, i = .sample c phase pw ∧ s.readWsel c = .noise ∧ refreshDue phase = true ∧
      t = s.noiseRefresh c phase) ∨
    (∃ c w, w ≠ .noise ∧ i = selCommand w c ∧ t = s.select c w) ∨
    (∃ c, i = .selNoise c ∧ t = (s.reseedOnSwitch c).select c .noise) ∨
    (∃ c, i = .chrst c ∧ t = ((s.writeLatch c 0#8).writeWsel c .tri).respond 0#8 0#16 false) := by
  cases i with
  | nop => cases h; exact .inl ⟨rfl, rfl⟩
  | sample c phase pw =>
    rcases execSample_cases h with ⟨v, hw, rfl⟩ | ⟨hw, hd, rfl⟩ | ⟨hw, hd, rfl⟩
    · exact .inr (.inl ⟨c, phase, pw, v, rfl, hw, rfl⟩)
    · exact .inr (.inr (.inl ⟨c, phase, pw, rfl, hw, hd, rfl⟩))
    · exact .inr (.inr (.inr (.inl ⟨c, phase, pw, rfl, hw, hd, rfl⟩)))
  | selTri c => cases h; exact .inr (.inr (.inr (.inr (.inl ⟨c, .tri, by decide, rfl, rfl⟩))))
  | selPulse c => cases h; exact .inr (.inr (.inr (.inr (.inl ⟨c, .pulse, by decide, rfl, rfl⟩))))
  | selSaw c => cases h; exact .inr (.inr (.inr (.inr (.inl ⟨c, .saw, by decide, rfl, rfl⟩))))
  | selNoise c => cases h; exact .inr (.inr (.inr (.inr (.inr (.inl ⟨c, rfl, rfl⟩)))))
  | chrst c => cases h; exact .inr (.inr (.inr (.inr (.inr (.inr ⟨c, rfl, rfl⟩)))))

/-! ### One edge -/

theorem State.takeEdge_nil {s : State} (h : s.inputs = []) : s.takeEdge = (Edge.idle, s) := by
  unfold State.takeEdge
  rw [h]

theorem State.takeEdge_cons {s : State} {e : Edge} {es : List Edge} (h : s.inputs = e :: es) :
    s.takeEdge = (e, s.withInputs es) := by
  unfold State.takeEdge
  rw [h]

/-- The step is what its edge does. -/
theorem step_of_inputs {s : State} {e : Edge} {es : List Edge} (h : s.inputs = e :: es) :
    step s = clockEdge e (s.withInputs es) := by
  unfold step
  rw [State.takeEdge_cons h]

/-- With nothing more at the ports, the step is an idle edge. -/
theorem step_of_no_inputs {s : State} (h : s.inputs = []) : step s = .next s.idle := by
  unfold step
  rw [State.takeEdge_nil h]
  rfl

/-- The edge taken leaves every field but the ports' as it is. -/
theorem State.takeEdge_state (s : State) : s.takeEdge.2 = s.withInputs s.inputs.tail := by
  unfold State.takeEdge
  rcases hs : s.inputs with _ | ⟨e, es⟩
  · cases s; cases hs; rfl
  · rfl

/-- Everything an edge can do: reset, a command, an illegal word, or nothing. -/
theorem clockEdge_cases {e : Edge} {s t : State} (h : clockEdge e s = .next t) :
    (e.rst = true ∧ t = s.applyReset) ∨
    (∃ i, e.rst = false ∧ e.cmdValid = true ∧ decode e.cmd = .command i ∧ exec i s = .next t) ∨
    (∃ why, e.rst = false ∧ e.cmdValid = true ∧ decode e.cmd = .illegal why ∧ t = s.raiseIllegalCommand) ∨
    (e.rst = false ∧ e.cmdValid = false ∧ t = s.idle) := by
  unfold clockEdge at h
  cases hr : e.rst <;> cases hv : e.cmdValid <;> simp only [hr, hv, if_true, if_false, Bool.false_eq_true] at h
  · cases h; simp
  · cases hd : decode e.cmd with
    | command i => exact .inr (.inl ⟨i, rfl, rfl, rfl, by simpa [acceptWord, hd] using h⟩)
    | illegal why =>
      simp only [acceptWord, hd] at h
      cases h
      exact .inr (.inr (.inl ⟨why, rfl, rfl, rfl, rfl⟩))
  · cases h; simp
  · cases h; simp

/-- Everything a step can do. -/
theorem step_cases {s t : State} (h : step s = .next t) :
    (s.takeEdge.1.rst = true ∧ t = s.takeEdge.2.applyReset) ∨
    (∃ i, s.takeEdge.1.rst = false ∧ s.takeEdge.1.cmdValid = true ∧
      decode s.takeEdge.1.cmd = .command i ∧ exec i s.takeEdge.2 = .next t) ∨
    (∃ why, s.takeEdge.1.rst = false ∧ s.takeEdge.1.cmdValid = true ∧
      decode s.takeEdge.1.cmd = .illegal why ∧ t = s.takeEdge.2.raiseIllegalCommand) ∨
    (s.takeEdge.1.rst = false ∧ s.takeEdge.1.cmdValid = false ∧ t = s.takeEdge.2.idle) :=
  clockEdge_cases h

/-- Every edge gives a next state. -/
theorem clockEdge_next (e : Edge) (s : State) : ∃ t, clockEdge e s = .next t := by
  unfold clockEdge acceptWord
  split
  · exact ⟨_, rfl⟩
  · split
    · split
      · exact exec_next _ _
      · exact ⟨_, rfl⟩
    · exact ⟨_, rfl⟩

/-! ### The caller -/

/-- Serving a channel that gets a next state: the phase sent is the advanced one and the phase stored is the
response's. -/
theorem Caller.serve_cases {c : Channel} {k k' : Caller} {s t : State}
    (h : Caller.serve c k s = .next (k', t)) :
    sendCommand (.sample c (k.advanced c) (k.width.get c)) s = .next t ∧ k' = k.store c t.rsp := by
  unfold Caller.serve at h
  split at h
  · cases h; exact ⟨by assumption, rfl⟩
  · cases h
  · cases h

end Sys2Proof.Machine
end

