-- ==== Sys2Proof/Laws/Caller.lean ====
section
/-! SUPPORT. The caller's small lemmas: what storing a response gives, and that serving a channel always ends. -/

namespace Sys2Proof.Machine

@[simp] theorem Caller.store_freq (k : Caller) (c : Channel) (r : Response) : (k.store c r).freq = k.freq := rfl

@[simp] theorem Caller.store_width (k : Caller) (c : Channel) (r : Response) : (k.store c r).width = k.width := rfl

/-- A stored phase after a response is stored: the served channel's is the response's, the others are as before. -/
@[simp] theorem Caller.store_phase (k : Caller) (c d : Channel) (r : Response) :
    (k.store c r).phase.get d = if c = d then r.phase else k.phase.get d := by
  simp [Caller.store, Vector.get_eq_getElem, Vector.getElem_set, Fin.ext_iff]

/-- A response adds to its own channel's refreshes, if it reports one. -/
@[simp] theorem Caller.store_refreshes (k : Caller) (c d : Channel) (r : Response) :
    (k.store c r).refreshes d = k.refreshes d + if c = d ∧ r.refresh = true then 1 else 0 := by
  simp [Caller.store, Caller.refreshes, List.countP_cons]

/-- Sending a command always gets a next state. -/
theorem sendCommand_next (i : Instr) (s : State) : ∃ t, sendCommand i s = .next t := by
  unfold sendCommand step
  exact clockEdge_next _ _

/-- Serving a channel always ends, with the phase of its response stored. -/
theorem Caller.serve_next (c : Channel) (k : Caller) (s : State) :
    ∃ t, sendCommand (.sample c (k.advanced c) (k.width.get c)) s = .next t ∧
      Caller.serve c k s = .next (k.store c t.rsp, t) := by
  obtain ⟨t, ht⟩ := sendCommand_next (.sample c (k.advanced c) (k.width.get c)) s
  exact ⟨t, ht, by simp [Caller.serve, ht]⟩

/-- Only NOISE has no value from the phase alone (40_waveforms.md R54). -/
theorem wave_eq_none (w : Waveform) (p8 : WavePhase) (pw : PulseWidth) : wave w p8 pw = none ↔ w = .noise := by
  cases w <;> simp [wave]

end Sys2Proof.Machine
end

