-- ==== Sys2Proof/Laws/PerInstr.lean ====
section
/-! SUPPORT. Statements made command by command: families whose statement is about the command as syntax. -/

namespace Sys2Proof.Laws.ReservedClear

/-- The word of a command has its reserved bits 0 (30_encoding.md R36). -/
def Statement (i : Instr) : Prop := fieldRsv (encode i) = 0#2

/-- No field but `rsv` reaches bits 3 and 2. -/
theorem packWord_reserved (phase : Phase) (pw : PulseWidth) (wf ch op : BitVec 2) :
    fieldRsv (packWord phase pw wf ch op) = 0#2 := by
  unfold fieldRsv packWord
  ext i hi
  have : i = 0 ∨ i = 1 := by omega
  rcases this with rfl | rfl <;> simp

theorem nop : Statement .nop := packWord_reserved ..

theorem sample (ch : Channel) (phase : Phase) (pw : PulseWidth) : Statement (.sample ch phase pw) :=
  packWord_reserved ..

theorem selTri (ch : Channel) : Statement (.selTri ch) := packWord_reserved ..

theorem selPulse (ch : Channel) : Statement (.selPulse ch) := packWord_reserved ..

theorem selSaw (ch : Channel) : Statement (.selSaw ch) := packWord_reserved ..

theorem selNoise (ch : Channel) : Statement (.selNoise ch) := packWord_reserved ..

theorem chrst (ch : Channel) : Statement (.chrst ch) := packWord_reserved ..

end Sys2Proof.Laws.ReservedClear

/-- Every command is well formed: its fields' types say so (60_exceptions.md R72). -/
theorem Sys2Proof.Laws.wellFormed_eq_true (i : Sys2Proof.Instr) : i.wellFormed = true := by
  cases i with
  | sample ch phase pw =>
    have hc := ch.isLt
    have hp := phase.isLt
    have hw := pw.isLt
    simp [Sys2Proof.Instr.wellFormed, Sys2Proof.channelOk, Sys2Proof.phaseOk, Sys2Proof.pulseWidthOk, hc, hp, hw]
  | nop => rfl
  | selTri ch => exact decide_eq_true ch.isLt
  | selPulse ch => exact decide_eq_true ch.isLt
  | selSaw ch => exact decide_eq_true ch.isLt
  | selNoise ch => exact decide_eq_true ch.isLt
  | chrst ch => exact decide_eq_true ch.isLt
end

