-- ==== Sys2Proof/Laws/Run.lean ====
section
/-! SUPPORT. What a run does edge by edge. The edges still to come never matter to what an edge does, so a run over
`e :: es` is the edge `e` and then the run over `es`. -/

namespace Sys2Proof.Machine

/-- What a command does is the same whatever the ports carry later. -/
theorem exec_withInputs {i : Instr} {s t : State} (h : exec i s = .next t) (es : List Edge) :
    exec i (s.withInputs es) = .next (t.withInputs es) := by
  cases i with
  | sample c phase pw =>
    have h' : execSample c phase pw s = .next t := h
    show execSample c phase pw (s.withInputs es) = _
    unfold execSample at h' ⊢
    rw [State.readWsel_withInputs]
    cases hw : wave (s.readWsel c) (wavePhase phase) pw <;> simp only [hw] at h' ⊢
    · cases hd : refreshDue phase <;> simp only [hd, Bool.false_eq_true, if_true, if_false] at h' ⊢ <;>
        cases h' <;> rfl
    · cases h'; rfl
  | selNoise c =>
    cases h
    show Host.Outcome.next _ = _
    rw [State.reseedOnSwitch_eq s, State.reseedOnSwitch_eq (s.withInputs es), State.reseedOnSwitch_lfsr,
      State.reseedOnSwitch_lfsr, State.readWsel_withInputs]
    rfl
  | nop => cases h; rfl
  | selTri c => cases h; rfl
  | selPulse c => cases h; rfl
  | selSaw c => cases h; rfl
  | chrst c => cases h; rfl

/-- What an edge does is the same whatever the ports carry later. -/
theorem clockEdge_withInputs {e : Edge} {s t : State} (h : clockEdge e s = .next t) (es : List Edge) :
    clockEdge e (s.withInputs es) = .next (t.withInputs es) := by
  unfold clockEdge acceptWord at h ⊢
  split at h
  · cases h; rename_i hr; rw [if_pos hr]; rfl
  · rename_i hr
    rw [if_neg hr]
    split at h
    · rename_i hv
      rw [if_pos hv]
      split at h
      · exact exec_withInputs h es
      · cases h; rfl
    · cases h; rename_i hv; rw [if_neg hv]; rfl

/-- The step with `e` at the ports is what the edge `e` does. -/
theorem step_withInputs_cons (s : State) (e : Edge) (es : List Edge) :
    step (s.withInputs (e :: es)) = clockEdge e (s.withInputs es) := step_of_inputs rfl

/-- A run of a machine whose first step gives `t` goes on from `t`. -/
theorem run_succ_of_step {M : Host.Core} {n : Nat} {s t : M.State} (h : M.step s = .next t) :
    M.run (n + 1) s = M.run n t := by
  have unfolded : M.run (n + 1) s =
      match M.step s with
      | .next s' => M.run n s'
      | .fault r => .fault r
      | .refused r => .refused r := rfl
  rw [unfolded, h]

theorem runEdges_nil (s : State) : runEdges [] s = .next (s.withInputs []) := rfl

/-- A run over `e :: es` is the edge `e`, then the run over `es`. -/
theorem runEdges_cons {e : Edge} {s t : State} (h : clockEdge e s = .next t) (es : List Edge) :
    runEdges (e :: es) s = runEdges es t :=
  run_succ_of_step (M := Sys2Proof.core) (s := s.withInputs (e :: es)) (t := t.withInputs es)
    ((step_withInputs_cons s e es).trans (clockEdge_withInputs h es))

/-- The responses do not depend on what the state says of the ports. -/
theorem replies_withInputs (es fs : List Edge) (s : State) : replies es (s.withInputs fs) = replies es s := by
  cases es <;> rfl

/-- The responses over `e :: es`: that of the edge `e`, then those over `es`. -/
theorem replies_cons {e : Edge} {s t : State} (h : clockEdge e s = .next t) (es : List Edge) :
    replies (e :: es) s = t.rsp :: replies es t := by
  have hs : step (s.withInputs [e]) = .next (t.withInputs []) :=
    (step_withInputs_cons s e []).trans (clockEdge_withInputs h [])
  simp only [replies, hs, replies_withInputs]
  rfl

end Sys2Proof.Machine
end

