-- ==== Sys2Proof/Tests/Slice0.lean ====
section
/-! SUPPORT. Tests: decoding from words written out of 30_encoding.md R36 and R44, the spec's own vectors of
95_test_vectors.md, the smoke test of the well-formedness checks, and a witness for the hypotheses of each
statement that has some. -/

namespace Sys2Proof.Tests

open Sys2Proof.Machine

/-! ### Helpers -/

/-- A state with nothing pending and no response. -/
def st (l : Lfsr) (latch : Vector Sample 4) (wsel : Vector Waveform 4) : State :=
  ⟨l, latch, wsel, false, Response.quiet, []⟩

/-- One channel of each waveform; the NOISE channel 0 holds 56. -/
def mixed : State := st 0xACE1 #v[56, 0, 0, 0] #v[.noise, .pulse, .saw, .tri]

/-- Channels 0 and 1 are NOISE. -/
def twoNoise : State := st 0xE270 #v[0xF1, 0, 0, 0] #v[.noise, .noise, .tri, .tri]

def nextOf : Host.Outcome State Fault Refusal → Option State
  | .next s => some s
  | .fault _ => none
  | .refused _ => none

/-- The state after the port's next edge carries the word `w`. -/
def send (w : Word) (s : State) : Option State := nextOf (step (s.withInputs [Edge.command w]))

/-! ### Every constructor's word, bit by bit: phase, pw, wf, ch, rsv, op (30_encoding.md R36, R44) -/

theorem test_decode_nop :
    decode 0b0000000000000000_00000000_00_00_00_00#32 = .command .nop := by decide

theorem test_decode_sample :
    decode 0b0001001000110100_01010110_00_11_00_01#32 = .command (.sample 3 0x1234 0x56) := by decide

theorem test_decode_selTri :
    decode 0b0000000000000000_00000000_00_01_00_10#32 = .command (.selTri 1) := by decide

theorem test_decode_selPulse :
    decode 0b0000000000000000_00000000_01_10_00_10#32 = .command (.selPulse 2) := by decide

theorem test_decode_selSaw :
    decode 0b0000000000000000_00000000_10_11_00_10#32 = .command (.selSaw 3) := by decide

theorem test_decode_selNoise :
    decode 0b0000000000000000_00000000_11_01_00_10#32 = .command (.selNoise 1) := by decide

theorem test_decode_chrst :
    decode 0b0000000000000000_00000000_00_11_00_11#32 = .command (.chrst 3) := by decide

/-- The examples of 30_encoding.md R44. -/
theorem test_encode_examples :
    encode (.selNoise 1) = 0x000000D2#32 ∧ encode (.sample 2 0x8000 0x80) = 0x80008021#32 ∧
      encode (.chrst 2) = 0x00000023#32 := by decide

/-- The illegal words of 95_test_vectors.md section 2.7, with the clause of 30_encoding.md R41 each meets. -/
theorem test_decode_illegal :
    decode 0x00000004#32 = .illegal .reservedBits ∧ decode 0x0000000C#32 = .illegal .reservedBits ∧
      decode 0x000000FE#32 = .illegal .reservedBits ∧ decode 0x00000010#32 = .illegal .nopOperand ∧
      decode 0x00000041#32 = .illegal .sampleWaveform ∧ decode 0x12345671#32 = .illegal .sampleWaveform ∧
      decode 0x000001C2#32 = .illegal .selOperand ∧ decode 0x00010002#32 = .illegal .selOperand ∧
      decode 0x00000043#32 = .illegal .chrstOperand ∧ decode 0x80000003#32 = .illegal .chrstOperand := by
  decide

theorem test_decodeTableWord :
    decodeTableWord 32 0x12345631 = some (.sample 3 0x1234 0x56) ∧ decodeTableWord 32 4 = none ∧
      decodeTableWord 8 0x1C2 = some (.selNoise 0) ∧ decodeTableWord 40 0 = none := by decide

/-- The parameters of 00_scope.md R6 and the types of the values. -/
theorem test_parameters :
    Phase = BitVec Config.phaseBits ∧ WavePhase = BitVec Config.wavePhaseBits ∧
      PulseWidth = BitVec Config.pwBits ∧ Lfsr = BitVec Config.lfsrBits ∧
      Sample = BitVec Config.sampleBits ∧ Channel = Fin Config.numChannels ∧
      2 ^ Config.chBits = Config.numChannels := ⟨rfl, rfl, rfl, rfl, rfl, rfl, rfl⟩

/-! ### Well-formedness: an ill-formed term for each check -/

theorem test_illFormed_channel : (AsmLine.sample 4 0 0).wellFormed = false := by decide
theorem test_illFormed_phase : (AsmLine.sample 0 65536 0).wellFormed = false := by decide
theorem test_illFormed_width : (AsmLine.sample 0 0 256).wellFormed = false := by decide
theorem test_illFormed_word : (AsmLine.word 4294967296).wellFormed = false := by decide
theorem test_illFormed_sel : (AsmLine.sel 4 .saw).wellFormed = false := by decide
theorem test_illFormed_selForm : (AsmLine.selForm .tri 4).wellFormed = false := by decide
theorem test_illFormed_chrst : (AsmLine.chrst 4).wellFormed = false := by decide
theorem test_illFormed_sampleNoWidth : (AsmLine.sampleNoWidth 0 65536).wellFormed = false := by decide
theorem test_illFormed_tick : (AsmLine.tick 0 0 0 65536 0 0 0 0).wellFormed = false ∧
    (AsmLine.tick 0 0 0 0 0 0 256 0).wellFormed = false := by decide
theorem test_wellFormed_line : (AsmLine.sample 3 65535 255).wellFormed = true := by decide
/-- Also the witness for `DecodeUndoesEncode`. -/
theorem test_wellFormed_command : (Instr.sample 3 0xFFFF 0xFF).wellFormed = true := by decide

/-! ### One step of each command, on the spec's vectors -/

/-- 41_commands.md R59. -/
theorem test_nop : send 0x00000000#32 mixed =
    some { mixed with rsp := ⟨true, 0, 0, false, false⟩ } := by decide

/-- 95_test_vectors.md P1, line 5: a large phase refreshes once. -/
theorem test_sample_refresh : send 0xC1230001#32 twoNoise =
    some { twoNoise with
      lfsr := 0x7138, latch := #v[0x38, 0, 0, 0], rsp := ⟨true, 0x38, 0x8123, true, false⟩ } := by decide

/-- 95_test_vectors.md P1, line 4: hold just below the threshold. -/
theorem test_sample_hold : send 0x3FFF0001#32 twoNoise =
    some { twoNoise with rsp := ⟨true, 0xF1, 0x3FFF, false, false⟩ } := by decide

/-- 95_test_vectors.md P3, lines 2, 6 and 7: pulse, sawtooth and triangle. -/
theorem test_sample_tones :
    (send 0x7FFF8011#32 mixed).map (·.rsp) = some ⟨true, 0xC0, 0x7FFF, false, false⟩ ∧
      (send 0x01000021#32 mixed).map (·.rsp) = some ⟨true, 0xC0, 0x0100, false, false⟩ ∧
      (send 0x80000031#32 mixed).map (·.rsp) = some ⟨true, 0x40, 0x8000, false, false⟩ := by decide

/-- 95_test_vectors.md section 2.8, with TRI: the latch and the LFSR stay. -/
theorem test_selTri : send 0x00000002#32 mixed =
    some { mixed with wsel := #v[.tri, .pulse, .saw, .tri], rsp := ⟨true, 0, 0, false, false⟩ } := by decide

/-- 95_test_vectors.md P3, line 1. -/
theorem test_selPulse : send 0x00000062#32 mixed =
    some { mixed with wsel := #v[.noise, .pulse, .pulse, .tri], rsp := ⟨true, 0, 0, false, false⟩ } := by decide

/-- 95_test_vectors.md section 2.8, line 3, on channel 0: the latch stays. -/
theorem test_selSaw : send 0x00000082#32 mixed =
    some { mixed with wsel := #v[.saw, .pulse, .saw, .tri], rsp := ⟨true, 0, 0, false, false⟩ } := by decide

/-- 95_test_vectors.md section 2.8, line 2: a NOISE channel is not reseeded. -/
theorem test_selNoise_again : send 0x000000D2#32 twoNoise =
    some { twoNoise with rsp := ⟨true, 0, 0, false, false⟩ } := by decide

/-- 95_test_vectors.md section 2.8, line 1: a switch reseeds. -/
theorem test_selNoise_switch : send 0x000000F2#32 mixed =
    some { mixed with
      lfsr := Config.lfsrSeed
      wsel := #v[.noise, .pulse, .saw, .noise]
      rsp := ⟨true, 0, 0, false, false⟩ } := rfl

/-- 95_test_vectors.md section 2.8, line 5. -/
theorem test_chrst : send 0x00000003#32 mixed =
    some { mixed with
      latch := #v[0, 0, 0, 0], wsel := #v[.tri, .pulse, .saw, .tri], rsp := ⟨true, 0, 0, false, false⟩ } := by
  decide

/-- 95_test_vectors.md section 2.9, line 1. -/
theorem test_illegal : send 0x00000005#32 mixed =
    some { mixed with err := true, rsp := ⟨true, 0, 0, false, true⟩ } := by decide

/-- 60_exceptions.md R77: reset wins over the SAMPLE at the same edge. -/
theorem test_reset_discards : nextOf (step (mixed.withInputs [⟨true, true, 0x40000001#32⟩])) =
    some State.reset := rfl

theorem test_idle : nextOf (step { mixed with rsp := ⟨true, 9, 9, true, true⟩ }) = some mixed := by decide

/-- The first command after reset runs as the table's word says. -/
theorem test_fetch_after_reset :
    step (State.reset.withFetchWord 32 0x80000011) = exec (.sample 1 0x8000 0) State.reset := rfl

/-- 70_reset_and_hazards.md R82, 93 I5. -/
theorem test_powerOn :
    nextOf (powerOn [Edge.idle, Edge.reset]) = some State.reset ∧
      nextOf (powerOn [Edge.idle, Edge.command 0, Edge.reset]) = none := ⟨rfl, rfl⟩

/-! ### The functions' tables -/

/-- 95_test_vectors.md section 2.1. -/
theorem test_tri : [0, 1, 63, 64, 126, 127, 128, 129, 191, 192, 200, 254, 255].map tri =
    [-64, -63, -1, 0, 62, 63, 64, 63, 1, 0, -8, -62, -63] := by decide

/-- 95_test_vectors.md section 2.2. -/
theorem test_pulse : [pulse 0 0x80, pulse 0x7F 0x80, pulse 0x80 0x80, pulse 0xFF 0, pulse 0xFE 0xFF,
    pulse 0xFF 0xFF, pulse 0 1, pulse 1 1] = [-64, -64, 63, 63, -64, 63, -64, 63] := by decide

/-- 95_test_vectors.md section 2.3. -/
theorem test_saw : [0, 1, 2, 3, 127, 128, 129, 254, 255].map saw =
    [-64, -64, -63, -63, -1, 0, 0, 63, 63] := by decide

/-- 95_test_vectors.md section 2.4, from 0xACE1. -/
theorem test_lfsr : ([1, 2, 3, 4, 5, 6, 7, 8].map fun n => (noiseValue (lfsrSteps n 0xACE1)).toInt) =
    [-15, 56, 28, 14, 7, -39, -10, -31] ∧ lfsrSteps 8 0xACE1 = 0xC2C4 := by decide

/-- 95_test_vectors.md section 2.5. -/
theorem test_threshold : refreshDue 0x3FFF = false ∧ refreshDue 0x4000 = true ∧ refreshDue 0xFFFF = true ∧
    refreshedPhase 0xFFFF = 0xBFFF := by decide

/-! ### The assembler -/

theorem test_parse_sample :
    parseLine ['S', 'A', 'M', 'P', 'L', 'E', ' ', 'c', '2', ',', ' ', '0', 'x', '8', '0', '0', '0', ',', ' ',
      '1', '2', '8'] = some (.sample 2 0x8000 128) := by decide

theorem test_parse_sel :
    parseLine ['S', 'E', 'L', '.', 'N', 'O', 'I', 'S', 'E', ' ', 'c', '1'] = some (.selForm .noise 1) ∧
      parseLine ['S', 'E', 'L', ' ', 'c', '1', ',', ' ', 'S', 'A', 'W'] = some (.sel 1 .saw) := by decide

theorem test_parse_others :
    parseLine ['N', 'O', 'P'] = some .nop ∧ parseLine ['C', 'H', 'R', 'S', 'T', ' ', 'c', '2'] = some (.chrst 2) ∧
      parseLine ['.', 'w', 'o', 'r', 'd', ' ', '0', 'x', 'F', '1'] = some (.word 0xF1) ∧
      parseLine ['.', 'w', 'o', 'r', 'd', ' ', '2', '4', '1'] = some (.word 0xF1) ∧
      parseLine ['N', 'O', 'P', ' ', '1'] = none := by decide

theorem test_parse_tick :
    parseLine ['T', 'I', 'C', 'K', ' ', '1', ',', '2', ',', '3', ',', '4', ' ', '/', ' ', '5', ',', '6', ',',
      '7', ',', '8'] = some (.tick 1 2 3 4 5 6 7 8) := by decide

theorem test_assemble_tick : assemble (.tick 0x4000 1 2 3 0 0 0 0x80) =
    some [0x40000001#32, 0x00010011#32, 0x00020021#32, 0x00038031#32] := by decide

/-! ### Witnesses: a concrete state and operands for the hypotheses of each statement that has some, one for each
clause, at a boundary of its range -/

/-- For `NopOnlyAnswersZeros`. -/
theorem witness_nopOtherBits : (0x10#32 : Word).extractLsb' 0 2 = 0#2 ∧ (0x10#32 : Word) ≠ 0#32 := by decide

/-- For `ToneSampleAnswersTheWave` and, a channel of the waveform already, `SelTriWritesTheSelector`, `SelPulseWritesTheSelector`, `SelSawWritesTheSelector`. -/
theorem witness_toneSample : mixed.readWsel 3 = .tri ∧ mixed.readWsel 1 = .pulse ∧ mixed.readWsel 2 = .saw := by
  decide

/-- For `NoiseSampleBelowQuarterHolds`. -/
theorem witness_noiseBelow : mixed.readWsel 0 = .noise ∧ (0x3FFF#16 : Phase).toNat < 0x4000 := by decide

/-- For `NoiseSampleAtQuarterRefreshes`. -/
theorem witness_noiseAt : mixed.readWsel 0 = .noise ∧ 0x4000 ≤ (0x4000#16 : Phase).toNat := by decide

/-- For `NoiseSampleAtQuarterRefreshes`. -/
theorem witness_noiseFarAbove : mixed.readWsel 0 = .noise ∧ 0x4000 ≤ (0x8000#16 : Phase).toNat ∧
    0x8000 ≤ (0x8000#16 : Phase).toNat := by decide

/-- For `SelNoiseReseedsOnASwitch`. -/
theorem witness_selNoise : mixed.readWsel 3 ≠ .noise ∧ mixed.readWsel 0 = .noise := by decide

/-- For `StepRunsTheDecodedCommand`. -/
theorem witness_stepRuns :
    (mixed.withInputs [⟨false, true, 0x000000D2#32⟩]).inputs = ⟨false, true, 0x000000D2#32⟩ :: [] ∧
      decode 0x000000D2#32 = .command (.selNoise 1) ∧ (Instr.selNoise 1).wellFormed = true ∧
      decodeTableWord 32 0xD2 = some (.selNoise 1) := by decide

/-- For `IllegalWordOnlySetsErr` and `IllegalWordsExactly`. -/
theorem witness_illegalWord :
    (mixed.withInputs [⟨false, true, 5#32⟩, ⟨false, true, encode .nop⟩]).inputs =
        ⟨false, true, 5#32⟩ :: [⟨false, true, encode .nop⟩] ∧
      decode 5#32 = .illegal .reservedBits := by decide

/-- For `EveryEdgeIsOneStep`. -/
theorem witness_everyEdge : (mixed.withInputs [Edge.idle]).inputs = Edge.idle :: [] ∧
    Edge.idle.rst = false ∧ Edge.idle.cmdValid = false := by decide

/-- For `ResetWinsOverACommand`. -/
theorem witness_reset :
    (mixed.withInputs [⟨true, true, 1#32⟩, ⟨true, false, 0#32⟩]).inputs =
      ⟨true, true, 1#32⟩ :: ⟨true, false, 0#32⟩ :: [] := by decide

/-- For `SeedIsNeverZero` and `LfsrStepNonzeroAndOneToOne`. -/
theorem witness_nonzeroSeed : (0xACE1#16 : Lfsr) ≠ 0#16 := by decide

/-- For `PowerOnWaitsForAReset`. -/
theorem witness_powerOn : ∀ e ∈ [Edge.idle], e.rst = false ∧ e.cmdValid = false := by decide

/-- For `TriangleSlopes`. -/
theorem witness_triangle : (127#8 : WavePhase).toNat < 128 ∧ 128 ≤ (128#8 : WavePhase).toNat := by decide

/-- For `LfsrStepIsGalois`. -/
theorem witness_lfsrBit : (0x8000#16 : Lfsr).getLsbD 0 = false ∧ (0x0001#16 : Lfsr).getLsbD 0 = true := by decide

/-- For `NoiseValueIsTheTopBits`. -/
theorem witness_topBits : ∀ k, 9 ≤ k → (0x7E00#16 : Lfsr).getLsbD k = (0x7FFF#16 : Lfsr).getLsbD k := by
  intro k hk
  by_cases h : k < 16
  · have : k = 9 ∨ k = 10 ∨ k = 11 ∨ k = 12 ∨ k = 13 ∨ k = 14 ∨ k = 15 := by omega
    rcases this with rfl | rfl | rfl | rfl | rfl | rfl | rfl <;> rfl
  · rw [BitVec.getLsbD_of_ge _ _ (by omega), BitVec.getLsbD_of_ge _ _ (by omega)]

/-- For `SawtoothRamp`. -/
theorem witness_sawStep : (127 : Nat) < 128 := by decide

/-- For `WaveValuesAreExact`. -/
theorem witness_wave : wave .tri 128 0 = some 64 ∧ ¬ (64 : Int) ≤ 63 := by decide

/-- For `LfsrStepNonzeroAndOneToOne`. -/
theorem witness_oneToOne : lfsrStep 0xACE1 = lfsrStep 0xACE1 := rfl

/-- For `LfsrHasFullPeriod`. -/
theorem witness_fullPeriod : (0xACE1#16 : Lfsr) ≠ 0#16 ∧ (0 < 1 ∧ 1 < 65535) ∧ (0x0001#16 : Lfsr) ≠ 0#16 := by
  decide

/-- For `EveryCommandHasOneWord`. -/
theorem witness_oneWord : decode 0xFFFFFF31#32 = .command (.sample 3 0xFFFF 0xFF) := by decide

/-- For `AssembledWordsDecode`: the last numbers in range, and the first out of it, of each operand. -/
theorem witness_assembled : 3 < 4 ∧ 65535 < 2 ^ 16 ∧ 255 < 2 ^ 8 ∧ 4294967295 < 2 ^ 32 ∧
    (AsmLine.tick 0 0 0 65535 0 0 0 255).wellFormed = true ∧
    (∀ w, AsmLine.tick 0 0 0 65535 0 0 0 255 ≠ .word w) ∧
    4 ≤ 4 ∧ 2 ^ 16 ≤ 65536 ∧ 2 ^ 8 ≤ 256 ∧ 2 ^ 32 ≤ 4294967296 := by
  refine ⟨by decide, by decide, by decide, by decide, by decide, ?_, by decide, by decide, by decide, by decide⟩
  intro w h
  cases h

/-- Each operand at its bounds; R44's example SAMPLE. -/
theorem test_assemble_bounds : assemble (.sample 2 0x8000 0x80) = some [0x80008021#32] ∧
    assemble (.sample 3 65535 255) = some [0xFFFFFF31#32] ∧ assemble (.sample 4 0 0) = none ∧
    assemble (.sample 0 65536 0) = none ∧ assemble (.sample 0 0 256) = none ∧
    assemble (.word 4294967296) = none := by decide

/-- For `PseudoInstructionsExpand`. -/
theorem witness_pseudo : 65535 < 2 ^ 16 ∧ 255 < 2 ^ 8 := by decide

/-- For `ResponsesFollowTheTable`. -/
theorem witness_responses : nextOf (exec .nop mixed) = some { mixed with rsp := ⟨true, 0, 0, false, false⟩ } ∧
    (∀ c phase pw, Instr.nop ≠ .sample c phase pw) ∧ decode 5#32 = .illegal .reservedBits := by
  refine ⟨by decide, ?_, by decide⟩
  intro c phase pw h
  cases h

/-- For `StepKeepsInv`. -/
theorem witness_inv : mixed.Inv ∧ nextOf (step mixed) = some mixed := by
  constructor
  · exact ⟨by decide, by decide⟩
  · decide

/-- For `LfsrHasThreeWriters`, `LatchHasThreeWriters`, `SelectorWriters`, `ErrIsStickyUntilReset` and
`RefreshBitMarksTheLfsrStep`: a step that answers a next state, here with a refresh that changes a latch. -/
theorem witness_stepChangesLatch :
    ∃ t, step (mixed.withInputs [Edge.command 0x40000001#32]) = .next t ∧ t.readLatch 0 = 0xF1 ∧
      (mixed.withInputs [Edge.command 0x40000001#32]).readLatch 0 = 56 ∧ t.rsp.refresh = true :=
  ⟨_, rfl, by decide, by decide, by decide⟩

/-- For `ChannelsAreIndependent`. -/
theorem witness_independent : channelOf? (.sample 0 0x4000 0) = some 0 ∧ (1 : Channel) ≠ 0 ∧
    mixed.lfsr = { mixed with err := true, latch := #v[56, 7, 7, 7] }.lfsr ∧
    mixed.readLatch 0 = { mixed with err := true, latch := #v[56, 7, 7, 7] }.readLatch 0 ∧
    mixed.readWsel 0 = { mixed with err := true, latch := #v[56, 7, 7, 7] }.readWsel 0 := by decide

/-- For `ChannelsAreIndependent`. -/
theorem witness_independentExec :
    ∃ t u, exec (.sample 0 0x4000 0) mixed = .next t ∧
      exec (.sample 0 0x4000 0) { mixed with err := true, latch := #v[56, 7, 7, 7] } = .next u :=
  ⟨_, _, rfl, rfl⟩

/-- For `OnlyARefreshIsNotIdempotent`. -/
theorem witness_idempotent : refreshes (.sample 0 0x3FFF 0) mixed = false ∧
    refreshes (.sample 0 0x4000 0) mixed = true ∧ mixed.lfsr ≠ 0#16 := by decide

/-- For `ErrAtTheEndTellsIllegalWords`. -/
theorem witness_errRun : (∀ e ∈ [Edge.command 5#32, Edge.idle], e.rst = false) ∧ mixed.err = false := by decide

/-- For `SharedLfsrServesInOrder`. -/
theorem witness_sharedLfsr : (0 : Channel) ≠ 1 ∧ twoNoise.readWsel 0 = .noise ∧ twoNoise.readWsel 1 = .noise ∧
    0x4000 ≤ (0x4000#16 : Phase).toNat := by decide

/-- For `ReseedReachesEveryNoiseChannel`. -/
theorem witness_reseedReaches : mixed.readWsel 3 ≠ .noise ∧ mixed.readWsel 0 = .noise ∧
    0x4000 ≤ (0x4000#16 : Phase).toNat := by decide

/-- For `NoiseIsTheLfsrSequence`. -/
theorem witness_noiseRun : ∀ e ∈ [Edge.command 0x40000001#32, Edge.idle],
    e.rst = false ∧ ∀ c, e.executes? ≠ some (.selNoise c) := by decide

/-- A caller at the boundary of the noise pacing: phase and frequency just below QUARTER. -/
def edgeCaller : Caller := ⟨#v[0x3FFF, 0, 0, 0], #v[0x3FFF, 0, 0, 0], #v[0, 0, 0, 0], []⟩

/-- For `NoisePacing`. -/
theorem witness_pacing : mixed.readWsel 0 = .noise ∧ (edgeCaller.freq.get 0).toNat < 0x4000 ∧
    (edgeCaller.phase.get 0).toNat < 0x4000 := by decide

/-- For `NoiseTickAtAnyFrequency`. -/
theorem witness_noiseTick : mixed.readWsel 0 = .noise ∧
    0x4000 ≤ (edgeCaller.phase.get 0 + edgeCaller.freq.get 0).toNat ∧ twoNoise.readWsel 1 = .noise ∧
    (edgeCaller.phase.get 1 + edgeCaller.freq.get 1).toNat < 0x4000 := by decide

/-- For `TonePhaseAfterTicks`. -/
theorem witness_toneTick : mixed.readWsel 3 ≠ .noise := by decide

/-- For `TickOrderIsWholeTicks`. -/
theorem witness_tickOrder : keepsTickOrder 0 [.selSaw 1, .sample 0 0 0, .sample 1 0 0, .sample 2 0 0,
    .sample 3 0 0, .chrst 2] = true ∧
    keepsTickOrder 0 [.sample 0 0 0, .nop, .sample 1 0 0, .sample 2 0 0, .sample 3 0 0] = false := by decide

/-- For `CallerTickRunsOneWholeTick`: a caller whose first channel's phase advances and whose others stay. -/
theorem witness_callerTick : ([.sample 0 0x7FFE 0, .sample 1 0 0, .sample 2 0 0, .sample 3 0 0] : List Instr) =
    [.sample 0 (edgeCaller.advanced 0) (edgeCaller.width.get 0),
     .sample 1 (edgeCaller.advanced 1) (edgeCaller.width.get 1),
     .sample 2 (edgeCaller.advanced 2) (edgeCaller.width.get 2),
     .sample 3 (edgeCaller.advanced 3) (edgeCaller.width.get 3)] := by decide

end Sys2Proof.Tests
end

section
/-! PROOFS. The state's statements of 10_state.md: the values after reset (R16) and the writers of `err` (R15). -/

namespace Sys2Proof.Machine

/-! ### The flag `err` under the meanings -/

@[simp] theorem State.select_err (s : State) (c : Channel) (w : Waveform) : (s.select c w).err = s.err := rfl

@[simp] theorem State.noiseHold_err (s : State) (c : Channel) (phase : Phase) :
    (s.noiseHold c phase).err = s.err := rfl

@[simp] theorem State.reseedOnSwitch_err (s : State) (c : Channel) : (s.reseedOnSwitch c).err = s.err := by
  rw [State.reseedOnSwitch_eq, State.writeLfsr_err]

@[simp] theorem State.takeEdge_err (s : State) : s.takeEdge.2.err = s.err := by
  rw [State.takeEdge_state, State.withInputs_err]

/-- No command writes `err`: only reset and an illegal word do (10_state.md R15). -/
theorem exec_err {i : Instr} {s t : State} (h : exec i s = .next t) : t.err = s.err := by
  obtain ⟨-, rfl⟩ | ⟨_, _, _, _, -, -, rfl⟩ | ⟨_, _, _, -, -, -, rfl⟩ | ⟨_, _, _, -, -, -, rfl⟩ |
    ⟨_, _, -, -, rfl⟩ | ⟨_, -, rfl⟩ | ⟨_, -, rfl⟩ := exec_cases h
  all_goals simp

/-! ### Which edges are illegal -/

theorem Edge.isIllegal_of_command {e : Edge} {i : Instr} (hd : decode e.cmd = .command i) :
    e.isIllegal = false := by
  simp [Edge.isIllegal, hd]

theorem Edge.isIllegal_of_illegal {e : Edge} {why : Illegal} (hr : e.rst = false) (hv : e.cmdValid = true)
    (hd : decode e.cmd = .illegal why) : e.isIllegal = true := by
  simp [Edge.isIllegal, hr, hv, hd]

theorem Edge.isIllegal_of_not_cmdValid {e : Edge} (hv : e.cmdValid = false) : e.isIllegal = false := by
  simp [Edge.isIllegal, hv]

/-! ### The writers of `err` -/

/-- What one edge makes of `err`: reset clears it, an illegal word sets it, a command and an idle edge keep it. -/
theorem clockEdge_err {e : Edge} {s t : State} (h : clockEdge e s = .next t) :
    t.err = (!e.rst && (s.err || e.isIllegal)) := by
  obtain ⟨hr, rfl⟩ | ⟨i, hr, -, hd, hexec⟩ | ⟨why, hr, hv, hd, rfl⟩ | ⟨hr, hv, rfl⟩ := clockEdge_cases h
  case inl => simp [hr]
  case inr.inl => simp [hr, Edge.isIllegal_of_command hd, exec_err hexec]
  case inr.inr.inl => simp [hr, Edge.isIllegal_of_illegal hr hv hd]
  case inr.inr.inr => simp [hr, Edge.isIllegal_of_not_cmdValid hv]

/-- Settles O43: a step is one edge (`clockEdge_err`), and taking it from the ports leaves `err` alone. -/
theorem errIsStickyUntilReset : Obligations.ErrIsStickyUntilReset := by
  intro s t h
  have edge : t.err = (!s.takeEdge.1.rst && (s.takeEdge.2.err || s.takeEdge.1.isIllegal)) := clockEdge_err h
  rwa [State.takeEdge_err] at edge

/-- Settles O14: `lfsr` and `err` by the definition of the reset state, the two channel files entry by entry. -/
theorem resetValues : Obligations.ResetValues :=
  ⟨rfl, State.readLatch_reset, State.readWsel_reset, rfl⟩

end Sys2Proof.Machine
end

section
/-! PROOFS. The waveform functions and the noise primitives of 40_waveforms.md, each one alone: the triangle (R48), the
sawtooth (R50), the noise value (R52) and the refresh threshold (R53). -/

namespace Sys2Proof.Machine

/-! ### The triangle -/

theorem tri_of_lt {p8 : WavePhase} (h : p8.toNat < 128) : tri p8 = (p8.toNat : Int) - 64 := if_pos h

theorem tri_of_ge {p8 : WavePhase} (h : 128 ≤ p8.toNat) : tri p8 = (255 - (p8.toNat : Int)) - 63 :=
  if_neg (Nat.not_lt.mpr h)

theorem tri_bounds (p8 : WavePhase) : -64 ≤ tri p8 ∧ tri p8 ≤ 64 := by
  have hp := p8.isLt
  rcases Nat.lt_or_ge p8.toNat 128 with h | h
  · rw [tri_of_lt h]; omega
  · rw [tri_of_ge h]; omega

/-- The rising slope ends at 63 and the falling one begins at 64, so the peak is the falling slope's first value. -/
theorem tri_eq_peak_iff (p8 : WavePhase) : tri p8 = 64 ↔ p8 = 128#8 := by
  rw [← BitVec.toNat_inj, BitVec.toNat_ofNat]
  rcases Nat.lt_or_ge p8.toNat 128 with h | h
  · rw [tri_of_lt h]; omega
  · rw [tri_of_ge h]; omega

/-- Settles O18, from the two slopes, their range and their one peak. -/
theorem triangleSlopes : Obligations.TriangleSlopes := by
  refine ⟨fun p8 => ⟨tri_of_lt, tri_of_ge, (tri_bounds p8).1, (tri_bounds p8).2, tri_eq_peak_iff p8⟩, ?corners⟩
  case corners => decide

/-! ### The sawtooth -/

/-- The wave phase's lowest bit is dropped. -/
theorem saw_eq (p8 : WavePhase) : saw p8 = ((p8.toNat / 2 : Nat) : Int) - 64 := by
  simp [saw, Nat.shiftRight_eq_div_pow]

theorem saw_bounds (p8 : WavePhase) : -64 ≤ saw p8 ∧ saw p8 ≤ 63 := by
  have hp := p8.isLt
  rw [saw_eq]; omega

theorem saw_ofNat {n : Nat} (h : n < 256) : saw (BitVec.ofNat 8 n) = ((n / 2 : Nat) : Int) - 64 := by
  rw [saw_eq, BitVec.toNat_ofNat, Nat.mod_eq_of_lt h]

/-- Settles O21: the ramp at an even wave phase and at the odd one after it halves to the same number. -/
theorem sawtoothRamp : Obligations.SawtoothRamp := by
  refine ⟨fun p8 => ⟨saw_eq p8, saw_bounds p8⟩, fun k hk => ⟨?even, ?odd⟩, ?corners⟩
  case even => rw [saw_ofNat (by omega)]; omega
  case odd => rw [saw_ofNat (by omega)]; omega
  case corners => decide

/-! ### The noise value -/

/-- Sign extension keeps the number that `l[15:9]` stands for. -/
theorem noiseValue_toInt (l : Lfsr) : (noiseValue l).toInt = (l.extractLsb' 9 7).toInt :=
  BitVec.toInt_signExtend_of_le (by decide)

theorem noiseValue_bounds (l : Lfsr) : -64 ≤ (noiseValue l).toInt ∧ (noiseValue l).toInt ≤ 63 := by
  have hlo := BitVec.le_toInt (l.extractLsb' 9 7)
  have hhi := BitVec.toInt_lt (x := l.extractLsb' 9 7)
  rw [noiseValue_toInt]; omega

/-- Registers that agree from bit 9 up have the same noise value. -/
theorem noiseValue_congr {l m : Lfsr} (h : ∀ k, 9 ≤ k → l.getLsbD k = m.getLsbD k) :
    noiseValue l = noiseValue m := by
  have htop : l.extractLsb' 9 7 = m.extractLsb' 9 7 := by
    ext i hi
    simp [h (9 + i) (Nat.le_add_right 9 i)]
  rw [noiseValue, htop, ← noiseValue]

/-- Settles O23, from the value's seven bits: their number, its range, and that no other bit is read. -/
theorem noiseValueIsTheTopBits : Obligations.NoiseValueIsTheTopBits := by
  refine ⟨fun l => ⟨noiseValue_toInt l, noiseValue_bounds l⟩, fun _ _ => noiseValue_congr, ?corners⟩
  case corners => decide

/-! ### The refresh threshold -/

theorem refreshDue_iff (phase : Phase) : refreshDue phase = true ↔ 0x4000 ≤ phase.toNat := decide_eq_true_iff

/-- The threshold is a power of two, so a phase reaches it exactly when a bit from there up is set. -/
theorem refreshDue_iff_topBits (phase : Phase) : refreshDue phase = true ↔ phase.extractLsb' 14 2 ≠ 0#2 := by
  have hp := phase.isLt
  rw [refreshDue_iff, ne_eq, ← BitVec.toNat_inj, BitVec.extractLsb'_toNat, Nat.shiftRight_eq_div_pow,
    BitVec.toNat_ofNat]
  omega

/-- Settles O24: the comparison with QUARTER and the test on `phase[15:14]` are the same. -/
theorem refreshThreshold : Obligations.RefreshThreshold := by
  refine ⟨fun phase => ⟨refreshDue_iff phase, refreshDue_iff_topBits phase⟩, ?corners⟩
  case corners => decide

end Sys2Proof.Machine
end

section
/-! PROOFS. The commands of 41_commands.md: NOP (R59), SAMPLE on a NOISE channel (R62, R63), the SEL forms (R64 to
R67) and CHRST (R68). -/

namespace Sys2Proof.Machine

/-! ### Selecting and reseeding -/

@[simp] theorem State.select_lfsr (s : State) (c : Channel) (w : Waveform) : (s.select c w).lfsr = s.lfsr := rfl

@[simp] theorem State.readLatch_select (s : State) (c d : Channel) (w : Waveform) :
    (s.select c w).readLatch d = s.readLatch d := rfl

@[simp] theorem State.readWsel_select (s : State) (c d : Channel) (w : Waveform) :
    (s.select c w).readWsel d = if c = d then w else s.readWsel d := State.readWsel_writeWsel s c d w

@[simp] theorem State.readLatch_reseedOnSwitch (s : State) (c d : Channel) :
    (s.reseedOnSwitch c).readLatch d = s.readLatch d := by
  rw [State.reseedOnSwitch_eq, State.readLatch_writeLfsr]

theorem State.reseedOnSwitch_of_ne {s : State} {c : Channel} (h : s.readWsel c ≠ .noise) :
    s.reseedOnSwitch c = s.writeLfsr Config.lfsrSeed := if_pos h

theorem State.reseedOnSwitch_of_eq {s : State} {c : Channel} (h : s.readWsel c = .noise) :
    s.reseedOnSwitch c = s := if_neg (not_not.mpr h)

/-- Writing the selector a channel already has changes nothing. -/
theorem State.writeWsel_readWsel (s : State) (c : Channel) : s.writeWsel c (s.readWsel c) = s := by
  simp [State.writeWsel, State.readWsel, Vector.get_eq_getElem]

/-- Selecting the waveform a channel already has only answers. -/
theorem State.select_of_eq {s : State} {c : Channel} {w : Waveform} (h : s.readWsel c = w) :
    s.select c w = s.respond 0#8 0#16 false := by
  subst h
  rw [State.select, State.writeWsel_readWsel]

/-! ### What the commands answer -/

theorem exec_selCommand {w : Waveform} (hw : w ≠ .noise) (c : Channel) (s : State) :
    exec (selCommand w c) s = .next (s.select c w) := by
  cases w with
  | tri => rfl
  | pulse => rfl
  | saw => rfl
  | noise => exact absurd rfl hw

theorem exec_selCommand_of_eq {w : Waveform} (hw : w ≠ .noise) {c : Channel} {s : State} (h : s.readWsel c = w) :
    exec (selCommand w c) s = .next (s.respond 0#8 0#16 false) := by
  rw [exec_selCommand hw, State.select_of_eq h]

theorem exec_selNoise (c : Channel) (s : State) :
    exec (.selNoise c) s = .next ((s.reseedOnSwitch c).select c .noise) := rfl

theorem exec_selNoise_of_ne {c : Channel} {s : State} (h : s.readWsel c ≠ .noise) :
    exec (.selNoise c) s = .next ((s.writeLfsr Config.lfsrSeed).select c .noise) := by
  rw [exec_selNoise, State.reseedOnSwitch_of_ne h]

theorem exec_selNoise_of_eq {c : Channel} {s : State} (h : s.readWsel c = .noise) :
    exec (.selNoise c) s = .next (s.respond 0#8 0#16 false) := by
  rw [exec_selNoise, State.reseedOnSwitch_of_eq h, State.select_of_eq h]

theorem exec_chrst (c : Channel) (s : State) :
    exec (.chrst c) s = .next (((s.writeLatch c 0#8).writeWsel c .tri).respond 0#8 0#16 false) := rfl

/-- On a NOISE channel the threshold decides between a refresh and the held sample. -/
theorem exec_sample_of_noise {c : Channel} {s : State} (h : s.readWsel c = .noise) (phase : Phase)
    (pw : PulseWidth) :
    exec (.sample c phase pw) s =
      if refreshDue phase then .next (s.noiseRefresh c phase) else .next (s.noiseHold c phase) := by
  show execSample c phase pw s = _
  rw [execSample, (wave_eq_none _ _ _).mpr h]

theorem exec_sample_below_quarter {c : Channel} {s : State} (h : s.readWsel c = .noise) {phase : Phase}
    (hp : phase.toNat < 0x4000) (pw : PulseWidth) :
    exec (.sample c phase pw) s = .next (s.noiseHold c phase) := by
  rw [exec_sample_of_noise h, if_neg]
  rw [refreshDue_iff]
  omega

theorem exec_sample_at_quarter {c : Channel} {s : State} (h : s.readWsel c = .noise) {phase : Phase}
    (hp : 0x4000 ≤ phase.toNat) (pw : PulseWidth) :
    exec (.sample c phase pw) s = .next (s.noiseRefresh c phase) := by
  rw [exec_sample_of_noise h, if_pos ((refreshDue_iff phase).mpr hp)]

/-! ### The commands' words -/

/-- The word of a SEL form: `op = 10`, the selector code in bits 7:6, the channel in bits 5:4. -/
theorem encode_selCommand (w : Waveform) (c : Channel) :
    encode (selCommand w c) =
      (waveformCode w).setWidth 32 <<< 6 ||| 0x00000002#32 ||| BitVec.ofNat 32 c.val <<< 4 := by
  revert c
  cases w <;> decide

theorem decode_encode_selCommand (w : Waveform) (c : Channel) :
    decode (encode (selCommand w c)) = .command (selCommand w c) := by
  revert c
  cases w <;> decide

/-- The word of a SEL form, and that it decodes to it. -/
theorem selCommand_word (w : Waveform) (c : Channel) {pattern : Word}
    (hp : (waveformCode w).setWidth 32 <<< 6 ||| 0x00000002#32 = pattern) :
    encode (selCommand w c) = pattern ||| BitVec.ofNat 32 c.val <<< 4 ∧
      decode (pattern ||| BitVec.ofNat 32 c.val <<< 4) = .command (selCommand w c) := by
  have word : encode (selCommand w c) = pattern ||| BitVec.ofNat 32 c.val <<< 4 := by
    rw [encode_selCommand, hp]
  exact ⟨word, word ▸ decode_encode_selCommand w c⟩

/-- The word of CHRST, and that it decodes to it. -/
theorem chrst_word : ∀ c : Channel, encode (.chrst c) = 0x00000003#32 ||| BitVec.ofNat 32 c.val <<< 4 ∧
    decode (0x00000003#32 ||| BitVec.ofNat 32 c.val <<< 4) = .command (.chrst c) := by
  decide

/-! ### NOP -/

/-- A word whose bits 1:0 and 31:2 are 0 is 0. -/
theorem word_eq_zero {w : Word} (hlow : w.extractLsb' 0 2 = 0#2) (hhigh : w.extractLsb' 2 30 = 0#30) :
    w = 0#32 := by
  have hw := w.isLt
  rw [← BitVec.toNat_inj, BitVec.extractLsb'_toNat, Nat.shiftRight_eq_div_pow, BitVec.toNat_ofNat] at hlow hhigh
  rw [← BitVec.toNat_inj, BitVec.toNat_ofNat]
  omega

theorem decode_of_reserved {w : Word} (h : fieldRsv w ≠ 0#2) : decode w = .illegal .reservedBits := if_pos h

/-- With `op = 00` and the reserved bits 0, any other bit is NOP's illegal operand. -/
theorem decode_of_nopOperand {w : Word} (hrsv : fieldRsv w = 0#2) (hop : fieldOp w = 0#2)
    (h : w.extractLsb' 2 30 ≠ 0#30) : decode w = .illegal .nopOperand := by
  simp [decode, hrsv, hop, h]

/-- `op = 00` is NOP at the word 0 only (30_encoding.md R41). -/
theorem illegal_of_op_zero {w : Word} (hop : w.extractLsb' 0 2 = 0#2) (hw : w ≠ 0#32) :
    ∃ why, decode w = .illegal why := by
  by_cases hrsv : fieldRsv w = 0#2
  · exact ⟨_, decode_of_nopOperand hrsv hop fun hhigh => hw (word_eq_zero hop hhigh)⟩
  · exact ⟨_, decode_of_reserved hrsv⟩

/-- Settles O1: the response by NOP's meaning, the other words by `illegal_of_op_zero`. -/
theorem nopOnlyAnswersZeros : Obligations.NopOnlyAnswersZeros :=
  ⟨fun _ => rfl, by decide, by decide, fun _ => illegal_of_op_zero⟩

/-! ### SAMPLE on a NOISE channel -/

/-- Settles O3: the hold below the threshold, and that a SEL.NOISE keeps the latch the hold then answers. -/
theorem noiseSampleBelowQuarterHolds : Obligations.NoiseSampleBelowQuarterHolds := by
  refine ⟨fun c phase pw s h hp => exec_sample_below_quarter h hp pw, fun c phase pw s hp => ?afterSelNoise⟩
  case afterSelNoise =>
    have selected : ((s.reseedOnSwitch c).select c .noise).readWsel c = .noise := by simp
    refine ⟨_, _, exec_selNoise c s, exec_sample_below_quarter selected hp pw, ?_⟩
    show ((s.reseedOnSwitch c).select c .noise).readLatch c = s.readLatch c
    simp

/-- Taking QUARTER off a phase that reaches it does not wrap. -/
theorem toNat_sub_quarter {phase : Phase} (hp : 0x4000 ≤ phase.toNat) :
    (phase - 0x4000#16).toNat = phase.toNat - 0x4000 :=
  BitVec.toNat_sub_of_le hp

/-- Settles O4: the refresh, and that one quarter less neither wraps nor takes a phase from 0x8000 up below it. -/
theorem noiseSampleAtQuarterRefreshes : Obligations.NoiseSampleAtQuarterRefreshes := by
  intro c phase pw s h hp
  refine ⟨exec_sample_at_quarter h hp pw, toNat_sub_quarter hp, fun hfar => ?stillDue⟩
  case stillDue =>
    rw [toNat_sub_quarter hp]
    omega

/-! ### The SEL forms -/

/-- Settles O5: SEL.TRI is `select` with code 00. -/
theorem selTriWritesTheSelector : Obligations.SelTriWritesTheSelector :=
  ⟨exec_selCommand (w := .tri) (by decide), fun _ _ => exec_selCommand_of_eq (by decide),
    fun c => selCommand_word .tri c (by decide)⟩

/-- Settles O6: SEL.PULSE is `select` with code 01. -/
theorem selPulseWritesTheSelector : Obligations.SelPulseWritesTheSelector :=
  ⟨exec_selCommand (w := .pulse) (by decide), fun _ _ => exec_selCommand_of_eq (w := .pulse) (by decide),
    fun c => selCommand_word .pulse c (by decide), by decide⟩

/-- Settles O7: SEL.SAW is `select` with code 10. -/
theorem selSawWritesTheSelector : Obligations.SelSawWritesTheSelector :=
  ⟨exec_selCommand (w := .saw) (by decide), fun _ _ => exec_selCommand_of_eq (w := .saw) (by decide),
    fun c => selCommand_word .saw c (by decide), by decide⟩

/-- Settles O8, by whether the channel is NOISE already: a switch reseeds and selects, no switch only answers. -/
theorem selNoiseReseedsOnASwitch : Obligations.SelNoiseReseedsOnASwitch :=
  ⟨fun _ _ => exec_selNoise_of_ne, fun _ _ => exec_selNoise_of_eq, fun c => selCommand_word .noise c (by decide),
    by decide⟩

/-! ### CHRST -/

/-- Settles O9: the channel is TRI after CHRST, so a SEL.NOISE on it is a switch. -/
theorem chrstResetsOneChannel : Obligations.ChrstResetsOneChannel := by
  refine ⟨exec_chrst, fun c s => ?thenSelNoise, chrst_word, by decide⟩
  case thenSelNoise =>
    refine ⟨_, _, exec_chrst c s, ?latch, ?selector, rfl, exec_selNoise_of_ne ?notNoise, rfl⟩
    all_goals simp

end Sys2Proof.Machine
end

section
/-! PROOFS. The reset of 70_reset_and_hazards.md: what a step does at an edge with `rst = 1` (R83, R84). -/

namespace Sys2Proof.Machine

/-! ### An edge with `rst = 1` -/

/-- Reset is looked at first, so what the command ports carry does not matter (60_exceptions.md R77). -/
theorem clockEdge_of_rst {e : Edge} (hr : e.rst = true) (s : State) : clockEdge e s = .next s.applyReset := if_pos hr

/-- A step at a reset edge keeps nothing of the state before it but the ports' coming edges. -/
theorem step_of_rst {s : State} {e : Edge} {es : List Edge} (h : s.inputs = e :: es) (hr : e.rst = true) :
    step s = .next (State.reset.withInputs es) := by
  rw [step_of_inputs h, clockEdge_of_rst hr]
  rfl

/-- The reset values of R83, channel by channel. -/
theorem State.reset_withInputs (es : List Edge) :
    State.reset.withInputs es =
      { lfsr := Config.lfsrSeed
        latch := #v[0#8, 0#8, 0#8, 0#8]
        wsel := #v[.tri, .tri, .tri, .tri]
        err := false
        rsp := ⟨false, 0#8, 0#16, false, false⟩
        inputs := es } := rfl

/-- Settles O13, from `step_of_rst`: the state after a reset edge does not depend on the one before it, so a second
reset edge only takes itself off the ports. -/
theorem resetWinsOverACommand : Obligations.ResetWinsOverACommand := by
  refine ⟨fun s valid w es h => ?discards, fun s v v' w w' es h => ?repeats⟩
  case discards =>
    rw [step_of_rst h rfl, State.reset_withInputs]
  case repeats =>
    have second : step (State.reset.withInputs (⟨true, v', w'⟩ :: es)) = .next (State.reset.withInputs es) :=
      step_of_rst (State.withInputs_inputs _ _) rfl
    exact ⟨_, step_of_rst h rfl, second⟩

end Sys2Proof.Machine
end

section
/-! PROOFS. The command word of 30_encoding.md: its format (R36) as six fields one after the other, through which the
encoder, the decoder, the opcode table and the assembler are read (R40, R41, R44, R45). -/

namespace Sys2Proof

/-! ### The format -/

/-- The word with these fields, the highest first (30_encoding.md R36). -/
def wordOfFields (phase : Phase) (pw : PulseWidth) (wf ch rsv op : BitVec 2) : Word :=
  phase ++ pw ++ wf ++ ch ++ rsv ++ op

theorem toNat_bits (w : Word) (k n : Nat) : (w.extractLsb' k n).toNat = w.toNat / 2 ^ k % 2 ^ n := by
  rw [BitVec.extractLsb'_toNat, Nat.shiftRight_eq_div_pow]

section Fields
variable (phase : Phase) (pw : PulseWidth) (wf ch rsv op : BitVec 2)

theorem toNat_wordOfFields :
    (wordOfFields phase pw wf ch rsv op).toNat =
      ((((phase.toNat * 2 ^ 8 + pw.toNat) * 2 ^ 2 + wf.toNat) * 2 ^ 2 + ch.toNat) * 2 ^ 2 + rsv.toNat) * 2 ^ 2 +
        op.toNat := by
  show BitVec.toNat (w := 16 + 8 + 2 + 2 + 2 + 2) (phase ++ pw ++ wf ++ ch ++ rsv ++ op) = _
  simp only [BitVec.toNat_append]
  rw [← Nat.shiftLeft_add_eq_or_of_lt op.isLt, ← Nat.shiftLeft_add_eq_or_of_lt rsv.isLt,
    ← Nat.shiftLeft_add_eq_or_of_lt ch.isLt, ← Nat.shiftLeft_add_eq_or_of_lt wf.isLt,
    ← Nat.shiftLeft_add_eq_or_of_lt pw.isLt]
  simp only [Nat.shiftLeft_eq]

theorem getLsbD_wordOfFields (i : Nat) :
    (wordOfFields phase pw wf ch rsv op).getLsbD i =
      if i < 2 then op.getLsbD i
      else if i < 4 then rsv.getLsbD (i - 2)
      else if i < 6 then ch.getLsbD (i - 4)
      else if i < 8 then wf.getLsbD (i - 6)
      else if i < 16 then pw.getLsbD (i - 8)
      else phase.getLsbD (i - 16) := by
  show BitVec.getLsbD (w := 16 + 8 + 2 + 2 + 2 + 2) (phase ++ pw ++ wf ++ ch ++ rsv ++ op) i = _
  simp only [BitVec.getLsbD_append, Nat.sub_sub]
  grind

@[simp] theorem fieldOp_wordOfFields : fieldOp (wordOfFields phase pw wf ch rsv op) = op := by
  rw [← BitVec.toNat_inj, fieldOp, toNat_bits, toNat_wordOfFields]
  omega

@[simp] theorem fieldRsv_wordOfFields : fieldRsv (wordOfFields phase pw wf ch rsv op) = rsv := by
  rw [← BitVec.toNat_inj, fieldRsv, toNat_bits, toNat_wordOfFields]
  omega

@[simp] theorem fieldCh_wordOfFields : fieldCh (wordOfFields phase pw wf ch rsv op) = ch := by
  rw [← BitVec.toNat_inj, fieldCh, toNat_bits, toNat_wordOfFields]
  omega

@[simp] theorem fieldWf_wordOfFields : fieldWf (wordOfFields phase pw wf ch rsv op) = wf := by
  rw [← BitVec.toNat_inj, fieldWf, toNat_bits, toNat_wordOfFields]
  omega

@[simp] theorem fieldPw_wordOfFields : fieldPw (wordOfFields phase pw wf ch rsv op) = pw := by
  rw [← BitVec.toNat_inj, fieldPw, toNat_bits, toNat_wordOfFields]
  omega

@[simp] theorem fieldPhase_wordOfFields : fieldPhase (wordOfFields phase pw wf ch rsv op) = phase := by
  rw [← BitVec.toNat_inj, fieldPhase, toNat_bits, toNat_wordOfFields]
  omega

/-- The encoder places each field where the format has it, and leaves the reserved bits 0. -/
theorem packWord_eq : packWord phase pw wf ch op = wordOfFields phase pw wf ch 0#2 op := by
  ext i hi
  rw [← BitVec.getLsbD_eq_getElem, ← BitVec.getLsbD_eq_getElem, getLsbD_wordOfFields]
  simp only [packWord, BitVec.getLsbD_or, BitVec.getLsbD_shiftLeft, BitVec.getLsbD_setWidth]
  grind

end Fields

/-- Every word is made of its fields. -/
theorem wordOfFields_fields (w : Word) :
    wordOfFields (fieldPhase w) (fieldPw w) (fieldWf w) (fieldCh w) (fieldRsv w) (fieldOp w) = w := by
  have := w.isLt
  rw [← BitVec.toNat_inj, toNat_wordOfFields]
  simp only [fieldPhase, fieldPw, fieldWf, fieldCh, fieldRsv, fieldOp, toNat_bits]
  omega

/-! ### The operand bits that must be 0 -/

/-- The bits above `ch` are `phase`, `pw` and `wf`. -/
theorem bits_31_6_eq_zero_iff (w : Word) :
    w.extractLsb' 6 26 = 0#26 ↔ fieldPhase w = 0#16 ∧ fieldPw w = 0#8 ∧ fieldWf w = 0#2 := by
  have := w.isLt
  simp only [← BitVec.toNat_inj, fieldPhase, fieldPw, fieldWf, toNat_bits, BitVec.toNat_ofNat]
  omega

/-- The bits above `wf` are `phase` and `pw`. -/
theorem bits_31_8_eq_zero_iff (w : Word) :
    w.extractLsb' 8 24 = 0#24 ↔ fieldPhase w = 0#16 ∧ fieldPw w = 0#8 := by
  have := w.isLt
  simp only [← BitVec.toNat_inj, fieldPhase, fieldPw, toNat_bits, BitVec.toNat_ofNat]
  omega

/-! ### Channels and waveforms in their fields -/

@[simp] theorem channelOfBits_channelBits (c : Channel) : channelOfBits (channelBits c) = c := by
  revert c
  decide

@[simp] theorem channelBits_channelOfBits (b : BitVec 2) : channelBits (channelOfBits b) = b := by
  revert b
  decide

@[simp] theorem waveformCode_waveformOfCode (b : BitVec 2) : waveformCode (waveformOfCode b) = b := by
  revert b
  decide

/-! ### The words of the commands -/

theorem encode_nop : encode .nop = 0#32 := by decide

theorem encode_sample (c : Channel) (phase : Phase) (pw : PulseWidth) :
    encode (.sample c phase pw) = wordOfFields phase pw 0#2 (channelBits c) 0#2 1#2 := packWord_eq ..

theorem encode_selCommand_fields (w : Waveform) (c : Channel) :
    encode (selCommand w c) = wordOfFields 0#16 0#8 (waveformCode w) (channelBits c) 0#2 2#2 := by
  cases w <;> exact packWord_eq ..

theorem encode_chrst (c : Channel) :
    encode (.chrst c) = wordOfFields 0#16 0#8 0#2 (channelBits c) 0#2 3#2 := packWord_eq ..

/-! ### Decoding, operation by operation -/

theorem decode_op_sample {w : Word} (hrsv : fieldRsv w = 0#2) (hop : fieldOp w = 1#2) (hwf : fieldWf w = 0#2) :
    decode w = .command (.sample (channelOfBits (fieldCh w)) (fieldPhase w) (fieldPw w)) := by
  simp [decode, hrsv, hop, hwf]

theorem decode_of_sampleWaveform {w : Word} (hrsv : fieldRsv w = 0#2) (hop : fieldOp w = 1#2)
    (hwf : fieldWf w ≠ 0#2) : decode w = .illegal .sampleWaveform := by
  simp [decode, hrsv, hop, hwf]

theorem decode_of_selOperand {w : Word} (hrsv : fieldRsv w = 0#2) (hop : fieldOp w = 2#2)
    (h : w.extractLsb' 8 24 ≠ 0#24) : decode w = .illegal .selOperand := by
  simp [decode, hrsv, hop, h]

theorem decode_of_chrstOperand {w : Word} (hrsv : fieldRsv w = 0#2) (hop : fieldOp w = 3#2)
    (h : w.extractLsb' 6 26 ≠ 0#26) : decode w = .illegal .chrstOperand := by
  simp [decode, hrsv, hop, h]

/-! ### Decoding and encoding undo each other -/

theorem decode_encode_sample (c : Channel) (phase : Phase) (pw : PulseWidth) :
    decode (encode (.sample c phase pw)) = .command (.sample c phase pw) := by
  rw [encode_sample, decode_op_sample] <;> simp

theorem decode_encode (i : Instr) : decode (encode i) = .command i := by
  cases i with
  | nop => decide
  | sample c phase pw => exact decode_encode_sample c phase pw
  | selTri c => exact Machine.decode_encode_selCommand .tri c
  | selPulse c => exact Machine.decode_encode_selCommand .pulse c
  | selSaw c => exact Machine.decode_encode_selCommand .saw c
  | selNoise c => exact Machine.decode_encode_selCommand .noise c
  | chrst c => exact (Machine.chrst_word c).1 ▸ (Machine.chrst_word c).2

/-- Settles O30, command by command (`decode_encode`). -/
theorem decodeUndoesEncode : Obligations.DecodeUndoesEncode := fun i _ => decode_encode i

/-- The five clauses of 30_encoding.md R41. -/
def breaksAClause (w : Word) : Prop :=
  w.extractLsb' 2 2 ≠ 0#2 ∨
  (w.extractLsb' 0 2 = 0#2 ∧ w.extractLsb' 2 30 ≠ 0#30) ∨
  (w.extractLsb' 0 2 = 1#2 ∧ w.extractLsb' 6 2 ≠ 0#2) ∨
  (w.extractLsb' 0 2 = 2#2 ∧ w.extractLsb' 8 24 ≠ 0#24) ∨
  (w.extractLsb' 0 2 = 3#2 ∧ w.extractLsb' 6 26 ≠ 0#26)

theorem illegal_of_breaksAClause {w : Word} (h : breaksAClause w) : ∃ why, decode w = .illegal why := by
  by_cases hrsv : fieldRsv w = 0#2
  case neg => exact ⟨_, Machine.decode_of_reserved hrsv⟩
  case pos =>
    obtain h | ⟨hop, h⟩ | ⟨hop, h⟩ | ⟨hop, h⟩ | ⟨hop, h⟩ := h
    · exact absurd hrsv h
    · exact ⟨_, Machine.decode_of_nopOperand hrsv hop h⟩
    · exact ⟨_, decode_of_sampleWaveform hrsv hop h⟩
    · exact ⟨_, decode_of_selOperand hrsv hop h⟩
    · exact ⟨_, decode_of_chrstOperand hrsv hop h⟩

/-- The four operations. -/
theorem op_cases (b : BitVec 2) : b = 0#2 ∨ b = 1#2 ∨ b = 2#2 ∨ b = 3#2 := by
  revert b
  decide

/-- A word that breaks no clause is the word of a command: its operation's, with its fields as operands. -/
theorem exists_encode_of_not_breaksAClause {w : Word} (h : ¬ breaksAClause w) : ∃ i, encode i = w := by
  simp only [breaksAClause, not_or, not_and, not_not] at h
  obtain ⟨hrsv, hnop, hsample, hsel, hchrst⟩ := h
  have hw := wordOfFields_fields w
  rw [show fieldRsv w = 0#2 from hrsv] at hw
  rcases op_cases (fieldOp w) with hop | hop | hop | hop <;> rw [hop] at hw
  · exact ⟨.nop, by rw [encode_nop, Machine.word_eq_zero hop (hnop hop)]⟩
  · refine ⟨.sample (channelOfBits (fieldCh w)) (fieldPhase w) (fieldPw w), ?_⟩
    rw [show fieldWf w = 0#2 from hsample hop] at hw
    rw [encode_sample, channelBits_channelOfBits, hw]
  · obtain ⟨hphase, hpw⟩ := (bits_31_8_eq_zero_iff w).mp (hsel hop)
    refine ⟨selCommand (waveformOfCode (fieldWf w)) (channelOfBits (fieldCh w)), ?_⟩
    rw [hphase, hpw] at hw
    rw [encode_selCommand_fields, waveformCode_waveformOfCode, channelBits_channelOfBits, hw]
  · obtain ⟨hphase, hpw, hwf⟩ := (bits_31_6_eq_zero_iff w).mp (hchrst hop)
    refine ⟨.chrst (channelOfBits (fieldCh w)), ?_⟩
    rw [hphase, hpw, hwf] at hw
    rw [encode_chrst, channelBits_channelOfBits, hw]

/-- A word that is not illegal is the word of the command it decodes to. -/
theorem encode_of_decode {w : Word} {i : Instr} (h : decode w = .command i) : encode i = w := by
  have legal : ¬ breaksAClause w := fun hbreaks => by
    obtain ⟨why, hwhy⟩ := illegal_of_breaksAClause hbreaks
    rw [h] at hwhy
    cases hwhy
  obtain ⟨j, rfl⟩ := exists_encode_of_not_breaksAClause legal
  rw [decode_encode] at h
  cases h
  rfl

/-- Settles O31: a legal word has the form of one command's word, and that word decodes to this command only. -/
theorem everyCommandHasOneWord : Obligations.EveryCommandHasOneWord := fun _ _ => encode_of_decode

theorem illegal_iff_breaksAClause (w : Word) : (∃ why, decode w = .illegal why) ↔ breaksAClause w := by
  refine ⟨fun ⟨why, hwhy⟩ => ?_, illegal_of_breaksAClause⟩
  by_contra legal
  obtain ⟨i, rfl⟩ := exists_encode_of_not_breaksAClause legal
  rw [decode_encode] at hwhy
  cases hwhy

theorem acceptWord_of_illegal {w : Word} {why : Illegal} (h : decode w = .illegal why) (s : Machine.State) :
    Machine.acceptWord w s = .next s.raiseIllegalCommand := by
  simp [Machine.acceptWord, h]

/-- Settles O33: the clauses by `illegal_iff_breaksAClause`, and the effect by that of the exception. -/
theorem illegalWordsExactly : Obligations.IllegalWordsExactly :=
  ⟨illegal_iff_breaksAClause, fun _ s ⟨_, h⟩ => acceptWord_of_illegal h s⟩

/-- Settles O29, by evaluating the decoder. -/
theorem specWordsDecode : Obligations.SpecWordsDecode := by
  unfold Obligations.SpecWordsDecode
  decide


/-! ### The opcode table -/

theorem exists_fields (w : Word) : ∃ phase pw wf ch rsv op, w = wordOfFields phase pw wf ch rsv op :=
  ⟨_, _, _, _, _, _, (wordOfFields_fields w).symm⟩

theorem wordOfFields_inj {phase phase' : Phase} {pw pw' : PulseWidth} {wf wf' ch ch' rsv rsv' op op' : BitVec 2} :
    wordOfFields phase pw wf ch rsv op = wordOfFields phase' pw' wf' ch' rsv' op' ↔
      phase = phase' ∧ pw = pw' ∧ wf = wf' ∧ ch = ch' ∧ rsv = rsv' ∧ op = op' := by
  constructor
  · intro h
    exact ⟨by simpa using congrArg fieldPhase h, by simpa using congrArg fieldPw h,
      by simpa using congrArg fieldWf h, by simpa using congrArg fieldCh h,
      by simpa using congrArg fieldRsv h, by simpa using congrArg fieldOp h⟩
  · rintro ⟨rfl, rfl, rfl, rfl, rfl, rfl⟩
    rfl

theorem and_wordOfFields (phase phase' : Phase) (pw pw' : PulseWidth) (wf wf' ch ch' rsv rsv' op op' : BitVec 2) :
    wordOfFields phase pw wf ch rsv op &&& wordOfFields phase' pw' wf' ch' rsv' op' =
      wordOfFields (phase &&& phase') (pw &&& pw') (wf &&& wf') (ch &&& ch') (rsv &&& rsv') (op &&& op') := by
  unfold wordOfFields
  rw [← BitVec.and_append, ← BitVec.and_append, ← BitVec.and_append, ← BitVec.and_append, ← BitVec.and_append]

/-- The mask of the SEL forms and CHRST frees the channel only. -/
theorem and_channelMask (phase : Phase) (pw : PulseWidth) (wf ch rsv op : BitVec 2) :
    wordOfFields phase pw wf ch rsv op &&& 0xFFFFFFCF#32 = wordOfFields phase pw wf 0#2 rsv op := by
  rw [show 0xFFFFFFCF#32 = wordOfFields (BitVec.allOnes 16) (BitVec.allOnes 8) (BitVec.allOnes 2) 0#2
    (BitVec.allOnes 2) (BitVec.allOnes 2) by decide, and_wordOfFields]
  simp only [BitVec.and_allOnes, BitVec.and_zero]

/-- The mask of SAMPLE frees the three operands. -/
theorem and_sampleMask (phase : Phase) (pw : PulseWidth) (wf ch rsv op : BitVec 2) :
    wordOfFields phase pw wf ch rsv op &&& 0x000000CF#32 = wordOfFields 0#16 0#8 wf 0#2 rsv op := by
  rw [show 0x000000CF#32 = wordOfFields 0#16 0#8 (BitVec.allOnes 2) 0#2 (BitVec.allOnes 2) (BitVec.allOnes 2) by
    decide, and_wordOfFields]
  simp only [BitVec.and_allOnes, BitVec.and_zero]

/-- A SEL row's match word and mask pick out the words of its form. -/
theorem channelMask_sel_iff (wave : Waveform) {pattern : Word}
    (hp : wordOfFields 0#16 0#8 (waveformCode wave) 0#2 0#2 2#2 = pattern) (w : Word) :
    w &&& 0xFFFFFFCF#32 = pattern ↔ encode (selCommand wave (channelOfBits (fieldCh w))) = w := by
  obtain ⟨phase, pw, wf, ch, rsv, op, rfl⟩ := exists_fields w
  rw [and_channelMask, ← hp, eq_comm, encode_selCommand_fields, fieldCh_wordOfFields, channelBits_channelOfBits]
  simp only [wordOfFields_inj, true_and]

theorem channelMask_chrst_iff (w : Word) :
    w &&& 0xFFFFFFCF#32 = 0x00000003#32 ↔ encode (.chrst (channelOfBits (fieldCh w))) = w := by
  obtain ⟨phase, pw, wf, ch, rsv, op, rfl⟩ := exists_fields w
  rw [and_channelMask, eq_comm, encode_chrst, fieldCh_wordOfFields, channelBits_channelOfBits,
    show 0x00000003#32 = wordOfFields 0#16 0#8 0#2 0#2 0#2 3#2 by decide]
  simp only [wordOfFields_inj, true_and]

theorem sampleMask_iff (w : Word) :
    w &&& 0x000000CF#32 = 0x00000001#32 ↔
      encode (.sample (channelOfBits (fieldCh w)) (fieldPhase w) (fieldPw w)) = w := by
  obtain ⟨phase, pw, wf, ch, rsv, op, rfl⟩ := exists_fields w
  rw [and_sampleMask, eq_comm, encode_sample, fieldCh_wordOfFields, fieldPhase_wordOfFields, fieldPw_wordOfFields,
    channelBits_channelOfBits, show 0x00000001#32 = wordOfFields 0#16 0#8 0#2 0#2 0#2 1#2 by decide]
  simp only [wordOfFields_inj, true_and]

/-- A word matches a row exactly when it is the word of the command that the row builds from it. -/
theorem matches_iff {r : OpcodeRow} (hr : r ∈ opcodeTable) (w : Word) :
    r.matches w = true ↔ encode (r.build w) = w := by
  rw [OpcodeRow.matches, beq_iff_eq]
  simp only [opcodeTable, List.mem_cons, List.not_mem_nil, or_false] at hr
  obtain rfl | rfl | rfl | rfl | rfl | rfl | rfl := hr
  · show w &&& BitVec.allOnes 32 = 0#32 ↔ encode .nop = w
    rw [BitVec.and_allOnes, encode_nop, eq_comm]
  · exact sampleMask_iff w
  · exact channelMask_sel_iff .tri (by decide) w
  · exact channelMask_sel_iff .pulse (by decide) w
  · exact channelMask_sel_iff .saw (by decide) w
  · exact channelMask_sel_iff .noise (by decide) w
  · exact channelMask_chrst_iff w

theorem encode_inj {i j : Instr} : encode i = encode j ↔ i = j := by
  refine ⟨fun h => ?_, congrArg encode⟩
  have hd := decode_encode i
  rw [h, decode_encode] at hd
  cases hd
  rfl

/-- The word of a command matches the rows that build this command. -/
theorem matchingRows_encode (i : Instr) :
    matchingRows (encode i) = opcodeTable.filter fun r => decide (r.build (encode i) = i) := by
  refine List.filter_congr fun r hr => ?_
  rw [Bool.eq_iff_iff, matches_iff hr, encode_inj, decide_eq_true_iff]

/-- Exactly one row builds a command from its word. -/
theorem exists_row_of_encode (i : Instr) :
    ∃ r, matchingRows (encode i) = [r] ∧ r.build (encode i) = i := by
  rw [matchingRows_encode]
  cases i <;> simp [opcodeTable, encode, packWord_eq]

/-- Settles O32: an illegal word is no command's word, so no row matches; a command's word has its own row. -/
theorem decodeFollowsTheOpcodeTable : Obligations.DecodeFollowsTheOpcodeTable := by
  intro w
  by_cases h : ∃ i, encode i = w
  case pos =>
    obtain ⟨i, rfl⟩ := h
    obtain ⟨r, hrows, hbuild⟩ := exists_row_of_encode i
    exact .inr ⟨r, hrows, by rw [decode_encode, hbuild]⟩
  case neg =>
    have illegal : ∃ why, decode w = .illegal why := illegal_of_breaksAClause (not_not.mp fun legal =>
      h (exists_encode_of_not_breaksAClause legal))
    refine .inl ⟨List.filter_eq_nil_iff.mpr fun r hr hmatches => h ⟨_, (matches_iff hr w).mp hmatches⟩, illegal⟩

/-! ### The assembler -/

section Assembler
open Machine

theorem channelOk_iff (c : Nat) : channelOk c = true ↔ c < 4 := decide_eq_true_iff

theorem phaseOk_iff (phase : Nat) : phaseOk phase = true ↔ phase < 2 ^ 16 := decide_eq_true_iff

theorem pulseWidthOk_iff (pw : Nat) : pulseWidthOk pw = true ↔ pw < 2 ^ 8 := decide_eq_true_iff

theorem rawWordOk_iff (w : Nat) : rawWordOk w = true ↔ w < 2 ^ 32 := decide_eq_true_iff

theorem wellFormed_sample (c phase pw : Nat) :
    (AsmLine.sample c phase pw).wellFormed = true ↔ c < 4 ∧ phase < 2 ^ 16 ∧ pw < 2 ^ 8 := by
  simp only [AsmLine.wellFormed, Bool.and_eq_true, channelOk_iff, phaseOk_iff, pulseWidthOk_iff, and_assoc]

theorem wellFormed_sampleNoWidth (c phase : Nat) :
    (AsmLine.sampleNoWidth c phase).wellFormed = true ↔ c < 4 ∧ phase < 2 ^ 16 := by
  simp only [AsmLine.wellFormed, Bool.and_eq_true, channelOk_iff, phaseOk_iff]

theorem wellFormed_tick (p0 p1 p2 p3 w0 w1 w2 w3 : Nat) :
    (AsmLine.tick p0 p1 p2 p3 w0 w1 w2 w3).wellFormed = true ↔
      p0 < 2 ^ 16 ∧ p1 < 2 ^ 16 ∧ p2 < 2 ^ 16 ∧ p3 < 2 ^ 16 ∧
        w0 < 2 ^ 8 ∧ w1 < 2 ^ 8 ∧ w2 < 2 ^ 8 ∧ w3 < 2 ^ 8 := by
  simp only [AsmLine.wellFormed, Bool.and_eq_true, phaseOk_iff, pulseWidthOk_iff, and_assoc]

theorem assemble_of_wellFormed {line : AsmLine} (h : line.wellFormed = true) (hword : ∀ w, line ≠ .word w) :
    assemble line = some ((expandLine line).map encode) := by
  unfold assemble
  rw [if_pos h]
  cases line with
  | word w => exact absurd rfl (hword w)
  | _ => rfl

theorem assemble_word {w : Nat} (h : w < 2 ^ 32) : assemble (.word w) = some [BitVec.ofNat 32 w] :=
  if_pos ((rawWordOk_iff w).mpr h)

theorem assemble_of_not_wellFormed {line : AsmLine} (h : ¬ line.wellFormed = true) : assemble line = none := if_neg h

theorem asmChannel_of_lt {c : Nat} (hc : c < 4) : asmChannel c = ⟨c, hc⟩ := Fin.ext (Nat.mod_eq_of_lt hc)

theorem assemble_sample {c phase pw : Nat} (hc : c < 4) (hphase : phase < 2 ^ 16) (hpw : pw < 2 ^ 8) :
    assemble (.sample c phase pw) =
      some [encode (.sample ⟨c, hc⟩ (BitVec.ofNat 16 phase) (BitVec.ofNat 8 pw))] := by
  rw [assemble_of_wellFormed ((wellFormed_sample ..).mpr ⟨hc, hphase, hpw⟩) (by simp), ← asmChannel_of_lt hc]
  rfl

theorem assemble_selForm (wave : Waveform) {c : Nat} (hc : c < 4) :
    assemble (.selForm wave c) = some [encode (selCommand wave ⟨c, hc⟩)] := by
  rw [assemble_of_wellFormed (line := .selForm wave c) ((channelOk_iff c).mpr hc) (by simp), ← asmChannel_of_lt hc]
  rfl

theorem assemble_chrst {c : Nat} (hc : c < 4) : assemble (.chrst c) = some [encode (.chrst ⟨c, hc⟩)] := by
  rw [assemble_of_wellFormed (line := .chrst c) ((channelOk_iff c).mpr hc) (by simp), ← asmChannel_of_lt hc]
  rfl

/-- A SEL line in range, with its word laid out as in R44's table. -/
theorem assemble_selForm_layout (wave : Waveform) {c : Nat} (hc : c < 4) :
    assemble (.selForm wave c) = some [encode (selCommand wave ⟨c, hc⟩)] ∧
      encode (selCommand wave ⟨c, hc⟩) =
        0x000000#24 ++ waveformCode wave ++ BitVec.ofNat 2 c ++ 0b00#2 ++ 0b10#2 :=
  ⟨assemble_selForm wave hc, encode_selCommand_fields wave _⟩

/-- Decoding the words of a line in range gives the commands of its expansion. -/
theorem map_decode_map_encode (is : List Instr) : (is.map encode).map decode = is.map Decoded.command := by
  rw [List.map_map]
  exact List.map_congr_left fun i _ => decode_encode i

/-- Settles O34: the lines in range by their expansions and the commands' words, the others by the range checks. -/
theorem assembledWordsDecode : Obligations.AssembledWordsDecode := by
  refine ⟨rfl, encode_nop, fun c phase pw hc hphase hpw => ?sample, fun c hc => ?operand, fun w => assemble_word,
    fun line h hword => ?expansion, fun c phase pw h => ?sampleRange, fun c phase h => ?noWidthRange,
    fun c h => ?channelRange, fun p0 p1 p2 p3 w0 w1 w2 w3 h => ?tickRange, fun w h => ?wordRange⟩
  case sample => exact ⟨assemble_sample hc hphase hpw, encode_sample ..⟩
  case operand =>
    exact ⟨assemble_selForm_layout .tri hc, assemble_selForm_layout .pulse hc, assemble_selForm_layout .saw hc,
      assemble_selForm_layout .noise hc, assemble_chrst hc, encode_chrst _⟩
  case expansion => exact ⟨_, assemble_of_wellFormed h hword, map_decode_map_encode _⟩
  case sampleRange => exact assemble_of_not_wellFormed (by rw [wellFormed_sample]; omega)
  case noWidthRange => exact assemble_of_not_wellFormed (by rw [wellFormed_sampleNoWidth]; omega)
  case channelRange =>
    have range : ¬ channelOk c = true := by rw [channelOk_iff]; omega
    exact ⟨assemble_of_not_wellFormed range,
      fun _ => ⟨assemble_of_not_wellFormed range, assemble_of_not_wellFormed range⟩⟩
  case tickRange => exact assemble_of_not_wellFormed (by rw [wellFormed_tick]; omega)
  case wordRange => exact assemble_of_not_wellFormed (by rw [AsmLine.wellFormed, rawWordOk_iff]; omega)

/-- Settles O35: each pseudo-instruction passes the same range checks as its expansion and has the same words. -/
theorem pseudoInstructionsExpand : Obligations.PseudoInstructionsExpand := by
  refine ⟨fun c w => rfl, fun c phase => ?sample, fun p0 p1 p2 p3 w0 w1 w2 w3 hp0 hp1 hp2 hp3 hw0 hw1 hw2 hw3 =>
    ⟨?tick, rfl⟩⟩
  case sample =>
    have checks : (AsmLine.sampleNoWidth c phase).wellFormed = (AsmLine.sample c phase 0).wellFormed := by
      rw [Bool.eq_iff_iff, wellFormed_sampleNoWidth, wellFormed_sample]
      omega
    unfold assemble
    rw [checks]
    rfl
  case tick =>
    rw [assemble_sample (by decide) hp0 hw0, assemble_sample (by decide) hp1 hw1, assemble_sample (by decide) hp2 hw2,
      assemble_sample (by decide) hp3 hw3,
      assemble_of_wellFormed ((wellFormed_tick ..).mpr ⟨hp0, hp1, hp2, hp3, hw0, hw1, hw2, hw3⟩) (by simp)]
    rfl

end Assembler

end Sys2Proof
end

section
/-! PROOFS. The pulse and the triangle's laws (40_waveforms.md R49, R55, R56), the seed (00_scope.md R7), and the LFSR:
its step (R51), that the step is linear over xor and so one-to-one (R57), and its period (R58). -/

namespace Sys2Proof.Machine

/-! ### The seed -/

theorem seedOfIndex_toNat (i : Fin 65535) : (Config.seedOfIndex i).toNat = i.val + 1 := by
  have := i.isLt
  rw [Config.seedOfIndex, BitVec.toNat_ofNat]
  omega

theorem seedOfIndex_ne_zero (i : Fin 65535) : Config.seedOfIndex i ≠ 0#16 := by
  rw [ne_eq, ← BitVec.toNat_inj, seedOfIndex_toNat]
  exact Nat.succ_ne_zero _

theorem lfsrSeed_ne_zero : Config.lfsrSeed ≠ 0#16 := seedOfIndex_ne_zero _

/-- The seeds' numbering reaches every value but zero. -/
theorem exists_seedIndex {v : Lfsr} (h : v ≠ 0#16) :
    ∃ i, Config.indexOfSeed? v = some i ∧ Config.seedOfIndex i = v := by
  have hv : v.toNat ≠ 0 := fun h0 => h (BitVec.eq_of_toNat_eq h0)
  refine ⟨_, dif_neg hv, BitVec.eq_of_toNat_eq ?_⟩
  rw [seedOfIndex_toNat]
  exact Nat.sub_one_add_one hv

/-- Settles O16: the numbering begins at 1, and 0 has no number. -/
theorem seedIsNeverZero : Obligations.SeedIsNeverZero :=
  ⟨lfsrSeed_ne_zero, dif_pos rfl, fun _ => exists_seedIndex⟩

/-! ### The pulse -/

theorem pulse_eq (p8 : WavePhase) (pw : PulseWidth) : pulse p8 pw = if p8.toNat < pw.toNat then -64 else 63 := rfl

theorem pulse_eq_low_iff (p8 : WavePhase) (pw : PulseWidth) : pulse p8 pw = -64 ↔ p8.toNat < pw.toNat := by
  rw [pulse_eq]
  split <;> simp [*]

theorem pulse_levels (p8 : WavePhase) (pw : PulseWidth) : pulse p8 pw = -64 ∨ pulse p8 pw = 63 := by
  rw [pulse_eq]
  split <;> simp

/-- Settles O19: each corner is the comparison at that width. -/
theorem pulseLevels : Obligations.PulseLevels := by
  refine ⟨pulse_eq, fun p8 => ?never, fun p8 => ?widest, fun p8 => ?half, by decide, by decide⟩
  case never => exact if_neg (Nat.not_lt_zero _)
  case widest =>
    have hp := p8.isLt
    have h255 : p8 = 255 ↔ ¬ p8.toNat < 255 := by
      rw [← BitVec.toNat_inj, show (255 : WavePhase).toNat = 255 from rfl]
      omega
    rw [pulse_eq, ite_cond_congr (propext h255), ite_not]
    rfl
  case half =>
    rw [pulse_eq, show (128 : PulseWidth).toNat = 128 from rfl, ite_cond_congr (propext Nat.lt_succ_iff)]

/-- Settles O20: the wave phases below the width come first in the range, and they are the low ones. -/
theorem pulseDuty : Obligations.PulseDuty := by
  intro pw
  have hpw := pw.isLt
  have low : ∀ n, n < 256 → (pulse (BitVec.ofNat 8 n) pw = -64 ↔ n < pw.toNat) := fun n hn => by
    rw [pulse_eq_low_iff, BitVec.toNat_ofNat, Nat.mod_eq_of_lt hn]
  have below : ∀ n ∈ List.range pw.toNat, decide (pulse (BitVec.ofNat 8 n) pw = -64) = true := fun n hn => by
    have hn := List.mem_range.mp hn
    rw [decide_eq_true_iff, low n (by omega)]
    exact hn
  have above : ∀ n ∈ (List.range (256 - pw.toNat)).map (pw.toNat + ·),
      ¬ decide (pulse (BitVec.ofNat 8 n) pw = -64) = true := fun n hn => by
    obtain ⟨m, hm, rfl⟩ := List.mem_map.mp hn
    have hm := List.mem_range.mp hm
    rw [decide_eq_true_iff, low _ (by omega)]
    omega
  rw [show 256 = pw.toNat + (256 - pw.toNat) by omega, List.range_add, List.countP_append,
    List.countP_eq_length.mpr below, List.countP_eq_zero.mpr above, List.length_range, Nat.add_zero]

/-! ### Every wave value is exact -/

theorem bits8_toInt {v : Int} (hlo : -128 ≤ v) (hhi : v < 128) : (bits8 v).toInt = v :=
  BitVec.toInt_ofInt_eq_self (by decide) hlo hhi

theorem wave_bounds {w : Waveform} {p8 : WavePhase} {pw : PulseWidth} {v : Int} (h : wave w p8 pw = some v) :
    -64 ≤ v ∧ v ≤ 64 ∧ (¬ v ≤ 63 → w = .tri ∧ p8 = 128#8) := by
  cases w <;> simp only [wave, Option.some.injEq, reduceCtorEq] at h <;> subst h
  case tri =>
    obtain ⟨hlo, hhi⟩ := tri_bounds p8
    exact ⟨hlo, hhi, fun h => ⟨rfl, (tri_eq_peak_iff p8).mp (by omega)⟩⟩
  case pulse => have := pulse_levels p8 pw; omega
  case saw => have := saw_bounds p8; omega

/-- The sample of a tone reads back as the wave's value. -/
theorem bits8_wave {w : Waveform} {p8 : WavePhase} {pw : PulseWidth} {v : Int} (h : wave w p8 pw = some v) :
    (bits8 v).toInt = v := by
  obtain ⟨hlo, hhi, -⟩ := wave_bounds h
  exact bits8_toInt (by omega) (by omega)

/-- Settles O25, from the range of each wave. -/
theorem waveValuesAreExact : Obligations.WaveValuesAreExact :=
  ⟨tri_bounds, pulse_levels, saw_bounds, noiseValue_bounds,
    fun _ _ _ _ h => ⟨bits8_wave h, (wave_bounds h).2.2⟩⟩

/-! ### The triangle's laws -/

theorem tri_add_half (p8 : WavePhase) : tri (p8 + 128) = -tri p8 := by
  have hp := p8.isLt
  have hadd : (p8 + 128).toNat = (p8.toNat + 128) % 256 := BitVec.toNat_add ..
  rcases Nat.lt_or_ge p8.toNat 128 with h | h
  · rw [tri_of_lt h, tri_of_ge (by omega)]; omega
  · rw [tri_of_ge h, tri_of_lt (by omega)]; omega

theorem tri_add_one (p8 : WavePhase) : tri (p8 + 1) - tri p8 = if p8.toNat < 128 then 1 else -1 := by
  have hp := p8.isLt
  have hadd : (p8 + 1).toNat = (p8.toNat + 1) % 256 := BitVec.toNat_add ..
  unfold tri
  split_ifs <;> omega

/-- Settles O26: one step up the rising slope or down the falling one, and the two halves of the range cancel. -/
theorem triangleLaws : Obligations.TriangleLaws := by
  refine ⟨fun p8 => ⟨?continuous, tri_add_half p8⟩, ?mean⟩
  case continuous =>
    rw [tri_add_one]
    split <;> rfl
  case mean =>
    have opposite : ∀ n, tri (BitVec.ofNat 8 (128 + n)) = -tri (BitVec.ofNat 8 n) := fun n => by
      rw [Nat.add_comm, BitVec.ofNat_add]
      exact tri_add_half _
    rw [show 256 = 128 + 128 from rfl, List.range_add, List.map_append, List.sum_append, List.map_map]
    simp only [Function.comp_def, opposite]
    rw [← List.sum_map_add]
    simp

/-! ### The LFSR's step -/

theorem lfsrStep_of_low {l : Lfsr} (h : l.getLsbD 0 = false) : lfsrStep l = l >>> 1 := by
  rw [lfsrStep, h]
  rfl

theorem lfsrStep_of_high {l : Lfsr} (h : l.getLsbD 0 = true) : lfsrStep l = (l >>> 1) ^^^ 0xB400#16 := if_pos h

/-- Settles O22, by the bit that is shifted out. -/
theorem lfsrStepIsGalois : Obligations.LfsrStepIsGalois := by
  refine ⟨fun l => ⟨lfsrStep_of_low, lfsrStep_of_high⟩, ?corners⟩
  case corners => decide

/-- The step is linear over xor: the shift is, and so is the taps' share, which is that of bit 0. -/
theorem lfsrStep_xor (l m : Lfsr) : lfsrStep (l ^^^ m) = lfsrStep l ^^^ lfsrStep m := by
  have shift : (l ^^^ m) >>> 1 = l >>> 1 ^^^ m >>> 1 := BitVec.ushiftRight_xor_distrib ..
  have bit : (l ^^^ m).getLsbD 0 = (l.getLsbD 0 ^^ m.getLsbD 0) := BitVec.getLsbD_xor
  cases hl : l.getLsbD 0 <;> cases hm : m.getLsbD 0 <;> rw [hl, hm] at bit
  · rw [lfsrStep_of_low bit, lfsrStep_of_low hl, lfsrStep_of_low hm, shift]
  · rw [lfsrStep_of_high bit, lfsrStep_of_low hl, lfsrStep_of_high hm, shift, BitVec.xor_assoc]
  · rw [lfsrStep_of_high bit, lfsrStep_of_high hl, lfsrStep_of_low hm, shift]
    ac_rfl
  · rw [lfsrStep_of_low bit, lfsrStep_of_high hl, lfsrStep_of_high hm, shift]
    rw [BitVec.xor_assoc, BitVec.xor_comm (m >>> 1), ← BitVec.xor_assoc 0xB400#16, BitVec.xor_self, BitVec.zero_xor]

/-- The shifted register has its top bit clear and so differs from the taps; with bit 0 clear the shift loses
nothing. -/
theorem lfsrStep_ne_zero {l : Lfsr} (h : l ≠ 0#16) : lfsrStep l ≠ 0#16 := by
  have hlt := l.isLt
  have hpos : l.toNat ≠ 0 := fun h0 => h (BitVec.eq_of_toNat_eq h0)
  have shift : (l >>> 1).toNat = l.toNat / 2 := BitVec.toNat_ushiftRight ..
  have bit : l.getLsbD 0 = decide (l.toNat % 2 = 1) := Nat.testBit_zero _
  intro hzero
  cases hl : l.getLsbD 0 with
  | true =>
    rw [lfsrStep_of_high hl, BitVec.xor_eq_zero_iff] at hzero
    have htaps : l.toNat / 2 = 0xB400 := by rw [← shift, hzero]; rfl
    omega
  | false =>
    rw [lfsrStep_of_low hl] at hzero
    have hhalf : l.toNat / 2 = 0 := by rw [← shift, hzero]; rfl
    rw [hl, eq_comm, decide_eq_false_iff_not] at bit
    omega

theorem lfsrStep_injective : Function.Injective lfsrStep := by
  intro l m h
  by_contra hne
  have hxor : l ^^^ m ≠ 0#16 := fun h0 => hne (BitVec.xor_eq_zero_iff.mp h0)
  refine lfsrStep_ne_zero hxor ?_
  rw [lfsrStep_xor, h, BitVec.xor_self]

/-- Settles O27: the step is linear and only 0 goes to 0. -/
theorem lfsrStepNonzeroAndOneToOne : Obligations.LfsrStepNonzeroAndOneToOne :=
  ⟨fun _ => lfsrStep_ne_zero, fun _ _ h => lfsrStep_injective h⟩

/-! ### Steps as linear maps -/

theorem lfsrSteps_eq_iterate (n : Nat) (l : Lfsr) : lfsrSteps n l = lfsrStep^[n] l := by
  induction n generalizing l with
  | zero => rfl
  | succ n ih => exact ih (lfsrStep l)

theorem lfsrSteps_add (m n : Nat) (l : Lfsr) : lfsrSteps (m + n) l = lfsrSteps m (lfsrSteps n l) := by
  simp only [lfsrSteps_eq_iterate, Function.iterate_add_apply]

theorem lfsrSteps_lfsrStep (n : Nat) (l : Lfsr) : lfsrSteps n (lfsrStep l) = lfsrStep (lfsrSteps n l) := by
  simp only [lfsrSteps_eq_iterate, ← Function.iterate_succ_apply, Function.iterate_succ_apply']

theorem lfsrSteps_ne_zero (n : Nat) {l : Lfsr} (h : l ≠ 0#16) : lfsrSteps n l ≠ 0#16 := by
  induction n generalizing l with
  | zero => exact h
  | succ n ih => exact ih (lfsrStep_ne_zero h)

/-- A map of registers that is linear over xor and commutes with the step. -/
structure StepLinear (f : Lfsr → Lfsr) : Prop where
  xor : ∀ l m, f (l ^^^ m) = f l ^^^ f m
  step : ∀ l, f (lfsrStep l) = lfsrStep (f l)

theorem StepLinear.zero {f : Lfsr → Lfsr} (hf : StepLinear f) : f 0#16 = 0#16 := by
  rw [← BitVec.xor_self (x := 0#16), hf.xor, BitVec.xor_self, BitVec.xor_self]

theorem stepLinear_lfsrSteps (n : Nat) : StepLinear (lfsrSteps n) where
  step := lfsrSteps_lfsrStep n
  xor l m := by
    induction n generalizing l m with
    | zero => rfl
    | succ n ih => rw [lfsrSteps, lfsrStep_xor, ih, lfsrSteps, lfsrSteps]

theorem StepLinear.add {f g : Lfsr → Lfsr} (hf : StepLinear f) (hg : StepLinear g) :
    StepLinear fun l => f l ^^^ g l where
  xor l m := by
    rw [hf.xor, hg.xor]
    ac_rfl
  step l := by rw [hf.step, hg.step, lfsrStep_xor]

/-- The combination of `b` and its successors that the bits of `v` choose, by Horner's rule over the low `n` bits:
bit 15 chooses `b`, bit 14 its successor, and so on. -/
def combine (v b : Lfsr) : Nat → Lfsr
  | 0 => 0#16
  | n + 1 => lfsrStep (combine v b n) ^^^ if v.getLsbD n then b else 0#16

/-- The register's top bit alone: its successors are the other bits, from the top down. -/
def topBit : Lfsr := 0x8000#16

theorem StepLinear.map_combine {f : Lfsr → Lfsr} (hf : StepLinear f) (v b : Lfsr) (n : Nat) :
    f (combine v b n) = combine v (f b) n := by
  induction n with
  | zero => exact hf.zero
  | succ n ih =>
    rw [combine, hf.xor, hf.step, ih, combine]
    split
    · rfl
    · rw [hf.zero]

theorem getLsbD_topBit (i : Nat) : topBit.getLsbD i = decide (i = 15) := by
  rw [topBit, show 0x8000#16 = BitVec.twoPow 16 15 from rfl, BitVec.getLsbD_twoPow]
  grind

/-- One round of Horner's rule at the top bit moves the register's bits down by one and takes bit `n` in. -/
theorem shiftLeft_round (v : Lfsr) {n : Nat} (hn : n < 16) :
    v <<< (16 - n) >>> 1 ^^^ (if v.getLsbD n then topBit else 0#16) = v <<< (16 - (n + 1)) := by
  ext i hi
  have taken : (if v.getLsbD n then topBit else 0#16).getLsbD i = (v.getLsbD n && decide (i = 15)) := by
    cases v.getLsbD n with
    | true => rw [if_pos rfl, getLsbD_topBit, Bool.true_and]
    | false => simp
  rw [← BitVec.getLsbD_eq_getElem, ← BitVec.getLsbD_eq_getElem, BitVec.getLsbD_xor, taken,
    BitVec.getLsbD_ushiftRight, BitVec.getLsbD_shiftLeft, BitVec.getLsbD_shiftLeft]
  rcases Nat.lt_or_ge i 15 with h | h
  · rw [show i - (16 - (n + 1)) = 1 + i - (16 - n) by omega]
    grind
  · obtain rfl : i = 15 := by omega
    rw [show 15 - (16 - (n + 1)) = n by omega]
    grind

theorem combine_topBit (v : Lfsr) : ∀ {n : Nat}, n ≤ 16 → combine v topBit n = v <<< (16 - n)
  | 0, _ => by
    ext i hi
    simp [combine]
  | n + 1, hn => by
    have low : (v <<< (16 - n)).getLsbD 0 = false := by
      rw [BitVec.getLsbD_shiftLeft]
      grind
    rw [combine, combine_topBit v (by omega), lfsrStep_of_low low, shiftLeft_round v hn]

/-- A linear map that commutes with the step is known by its value at the top bit. -/
theorem StepLinear.eq_combine {f : Lfsr → Lfsr} (hf : StepLinear f) (v : Lfsr) : f v = combine v (f topBit) 16 := by
  rw [← hf.map_combine, combine_topBit v (Nat.le_refl _), Nat.sub_self, BitVec.shiftLeft_zero]

theorem StepLinear.ext {f g : Lfsr → Lfsr} (hf : StepLinear f) (hg : StepLinear g) (h : f topBit = g topBit)
    (l : Lfsr) : f l = g l := by
  rw [hf.eq_combine, hg.eq_combine, h]

/-! ### Many steps at once -/

/-- `n` steps of the top bit, for `n` below `2 ^ k`, by halving `n`. -/
def jump : Nat → Nat → Lfsr
  | 0, _ => topBit
  | k + 1, n =>
    if n % 2 = 1 then lfsrStep (combine (jump k (n / 2)) (jump k (n / 2)) 16)
    else combine (jump k (n / 2)) (jump k (n / 2)) 16

theorem jump_eq : ∀ {k n : Nat}, n < 2 ^ k → jump k n = lfsrSteps n topBit
  | 0, n, h => by
    obtain rfl : n = 0 := by omega
    rfl
  | k + 1, n, h => by
    have half : jump k (n / 2) = lfsrSteps (n / 2) topBit := jump_eq (by omega)
    have double : combine (jump k (n / 2)) (jump k (n / 2)) 16 = lfsrSteps (n / 2 + n / 2) topBit := by
      rw [half, ← (stepLinear_lfsrSteps (n / 2)).eq_combine, lfsrSteps_add]
    rw [jump, double]
    split
    · rw [← lfsrSteps_lfsrStep, ← lfsrSteps]
      congr 1
      omega
    · congr 1
      omega

/-! ### The period -/

/-- 65535 steps bring the top bit back, and so every register. -/
theorem lfsrSteps_period (l : Lfsr) : lfsrSteps 65535 l = l := by
  have top : lfsrSteps 65535 topBit = lfsrSteps 0 topBit := by
    rw [← jump_eq (k := 16) (by decide)]
    cbv
  exact (stepLinear_lfsrSteps 65535).ext (stepLinear_lfsrSteps 0) top l

/-- Where `l` and its `k`-th successor always add to the `j`-th one, no `k` steps bring a non-zero register back. -/
theorem lfsrSteps_ne_self {k j : Nat} (hk : k < 2 ^ 16) (hj : j < 2 ^ 16)
    (h : jump 16 k ^^^ topBit = jump 16 j) {l : Lfsr} (hl : l ≠ 0#16) : lfsrSteps k l ≠ l := by
  have sum : ∀ m, lfsrSteps k m ^^^ lfsrSteps 0 m = lfsrSteps j m :=
    ((stepLinear_lfsrSteps k).add (stepLinear_lfsrSteps 0)).ext (stepLinear_lfsrSteps j) (by
      rw [← jump_eq hk, ← jump_eq hj]
      exact h)
  intro hback
  refine lfsrSteps_ne_zero j hl ?_
  rw [← sum, hback]
  exact BitVec.xor_self

/-- No quotient of 65535 by a prime is a period. -/
theorem lfsrSteps_prime_quotient {p : Nat} (hp : p.Prime) (hdvd : p ∣ 65535) {l : Lfsr} (hl : l ≠ 0#16) :
    lfsrSteps (65535 / p) l ≠ l := by
  have primes : p = 3 ∨ p = 5 ∨ p = 17 ∨ p = 257 := by
    rw [show 65535 = 3 * 5 * 17 * 257 from rfl, hp.dvd_mul, hp.dvd_mul, hp.dvd_mul,
      Nat.prime_dvd_prime_iff_eq hp (by norm_num), Nat.prime_dvd_prime_iff_eq hp (by norm_num),
      Nat.prime_dvd_prime_iff_eq hp (by norm_num), Nat.prime_dvd_prime_iff_eq hp (by norm_num)] at hdvd
    omega
  obtain rfl | rfl | rfl | rfl := primes
  · exact lfsrSteps_ne_self (k := 21845) (j := 43690) (by decide) (by decide) (by cbv) hl
  · exact lfsrSteps_ne_self (k := 13107) (j := 61166) (by decide) (by decide) (by cbv) hl
  · exact lfsrSteps_ne_self (k := 3855) (j := 8481) (by decide) (by decide) (by cbv) hl
  · exact lfsrSteps_ne_self (k := 255) (j := 12849) (by decide) (by decide) (by cbv) hl

/-- The period divides 65535 and, by `lfsrSteps_prime_quotient`, no proper divisor of it. -/
theorem minimalPeriod_lfsrStep {l : Lfsr} (hl : l ≠ 0#16) : Function.minimalPeriod lfsrStep l = 65535 := by
  have periodic : Function.IsPeriodicPt lfsrStep 65535 l := (lfsrSteps_eq_iterate ..).symm.trans (lfsrSteps_period l)
  obtain ⟨q, hq⟩ := periodic.minimalPeriod_dvd
  by_contra hne
  obtain ⟨p, hp, r, rfl⟩ := Nat.exists_prime_and_dvd (n := q) fun h1 => hne (by rw [hq, h1, Nat.mul_one])
  have quotient : 65535 / p = Function.minimalPeriod lfsrStep l * r :=
    Nat.div_eq_of_eq_mul_right hp.pos (by rw [hq]; ring)
  have shorter : Function.IsPeriodicPt lfsrStep (65535 / p) l := by
    rw [quotient]
    exact (Function.isPeriodicPt_minimalPeriod lfsrStep l).mul_const r
  have hdvd : p ∣ 65535 := ⟨Function.minimalPeriod lfsrStep l * r, by rw [hq]; ring⟩
  exact lfsrSteps_prime_quotient hp hdvd hl ((lfsrSteps_eq_iterate ..).trans shorter)

/-- The 65535 registers of a period are different, and there are no more non-zero ones. -/
theorem exists_lfsrSteps_eq {l m : Lfsr} (hl : l ≠ 0#16) (hm : m ≠ 0#16) :
    ∃ k, k < 65535 ∧ lfsrSteps k l = m := by
  have numbered : ∀ k : Fin 65535, ∃ i, Config.seedOfIndex i = lfsrSteps k l := fun k => by
    obtain ⟨i, -, hi⟩ := exists_seedIndex (lfsrSteps_ne_zero k hl)
    exact ⟨i, hi⟩
  choose number hnumber using numbered
  have injective : Function.Injective number := fun j k h => by
    have distinct := Function.iterate_injOn_Iio_minimalPeriod (f := lfsrStep) (x := l)
    rw [minimalPeriod_lfsrStep hl] at distinct
    refine Fin.ext (distinct j.isLt k.isLt ?_)
    simp only [← lfsrSteps_eq_iterate, ← hnumber, h]
  obtain ⟨i, -, hi⟩ := exists_seedIndex hm
  obtain ⟨k, hk⟩ := Finite.injective_iff_surjective.mp injective i
  exact ⟨k, k.isLt, by rw [← hnumber, hk, hi]⟩

/-- Settles O28, by the least period and by counting the registers it goes through. -/
theorem lfsrHasFullPeriod : Obligations.LfsrHasFullPeriod := by
  refine fun l hl => ⟨lfsrSteps_period l, fun k hpos hk hback => ?_, fun m => exists_lfsrSteps_eq hl⟩
  have least : k < Function.minimalPeriod lfsrStep l := by rwa [minimalPeriod_lfsrStep hl]
  exact Function.not_isPeriodicPt_of_pos_of_lt_minimalPeriod hpos.ne' least
    ((lfsrSteps_eq_iterate ..).symm.trans hback)

end Sys2Proof.Machine
end

section
/-! PROOFS. What each command answers and changes (41_commands.md), what each step does to each field of the state
(10_state.md R12 to R15, R19, R21), the invariant every step keeps (R13, R24), and the steps at the ports
(30_encoding.md R35, R46, 60_exceptions.md R72, R74, 70_reset_and_hazards.md R82, R85). -/

namespace Sys2Proof.Machine

/-! ### SAMPLE -/

/-- On a channel whose waveform needs no state SAMPLE only answers. -/
theorem exec_sample_tone {c : Channel} {phase : Phase} {pw : PulseWidth} {s : State} {v : Int}
    (h : wave (s.readWsel c) (wavePhase phase) pw = some v) :
    exec (.sample c phase pw) s = .next (s.respond (bits8 v) phase false) := by
  show execSample c phase pw s = _
  rw [execSample, h]

/-- Only NOISE has no wave value. -/
theorem exists_wave {w : Waveform} (h : w ≠ .noise) (p8 : WavePhase) (pw : PulseWidth) : ∃ v, wave w p8 pw = some v :=
  Option.ne_none_iff_exists'.mp fun hnone => h ((wave_eq_none w p8 pw).mp hnone)

theorem refreshes_sample (c : Channel) (phase : Phase) (pw : PulseWidth) (s : State) :
    refreshes (.sample c phase pw) s = true ↔ s.readWsel c = .noise ∧ 0x4000 ≤ phase.toNat := by
  rw [refreshes, Bool.and_eq_true, decide_eq_true_iff, refreshDue_iff]

theorem exec_sample_refresh {c : Channel} {phase : Phase} {pw : PulseWidth} {s : State}
    (h : refreshes (.sample c phase pw) s = true) :
    exec (.sample c phase pw) s = .next (s.noiseRefresh c phase) := by
  obtain ⟨hnoise, hphase⟩ := (refreshes_sample c phase pw s).mp h
  exact exec_sample_at_quarter hnoise hphase pw

/-- Settles O2: `exec_sample_tone` at each of the three waves. -/
theorem toneSampleAnswersTheWave : Obligations.ToneSampleAnswersTheWave := by
  refine ⟨fun c phase pw s => ⟨fun h => ?_, fun h => ?_, fun h => ?_⟩, by decide, by decide, by decide, by decide⟩
  all_goals exact exec_sample_tone (by rw [h]; rfl)

/-- Settles O15: the reset state's LFSR is the seed already. -/
theorem firstSelNoiseKeepsTheSeed : Obligations.FirstSelNoiseKeepsTheSeed := by
  refine fun c => ⟨_, exec_selNoise_of_ne (by simp), rfl, by simp, by simp⟩

/-! ### What a command answers -/

theorem exec_inputs {i : Instr} {s t : State} (h : exec i s = .next t) : t.inputs = s.inputs := by
  obtain ⟨-, rfl⟩ | ⟨_, _, _, _, -, -, rfl⟩ | ⟨_, _, _, -, -, -, rfl⟩ | ⟨_, _, _, -, -, -, rfl⟩ |
    ⟨_, _, -, -, rfl⟩ | ⟨_, -, rfl⟩ | ⟨_, -, rfl⟩ := exec_cases h
  case inr.inr.inr.inr.inr.inl =>
    rw [State.reseedOnSwitch_eq]
    rfl
  all_goals rfl

/-- The response of every command but SAMPLE. -/
theorem exec_rsp_of_not_sample {i : Instr} {s t : State} (h : exec i s = .next t)
    (hi : ∀ c phase pw, i ≠ .sample c phase pw) : t.rsp = Response.answer 0#8 0#16 false := by
  obtain ⟨-, rfl⟩ | ⟨c, phase, pw, _, rfl, -, rfl⟩ | ⟨c, phase, pw, rfl, -, -, rfl⟩ | ⟨c, phase, pw, rfl, -, -, rfl⟩ |
    ⟨_, _, -, -, rfl⟩ | ⟨_, -, rfl⟩ | ⟨_, -, rfl⟩ := exec_cases h
  case inr.inl | inr.inr.inl | inr.inr.inr.inl => exact absurd rfl (hi c phase pw)
  all_goals rfl

/-! ### Everything a command can do, by whether it steps the LFSR -/

@[simp] theorem refreshes_selCommand (w : Waveform) (c : Channel) (s : State) :
    refreshes (selCommand w c) s = false := by
  cases w <;> rfl

theorem switchesOntoNoise_selCommand {w : Waveform} (hw : w ≠ .noise) (c : Channel) (s : State) :
    switchesOntoNoise (selCommand w c) s = false := by
  cases w with
  | tri => rfl
  | pulse => rfl
  | saw => rfl
  | noise => exact absurd rfl hw

theorem ne_noise_of_wave {w : Waveform} {p8 : WavePhase} {pw : PulseWidth} {v : Int} (h : wave w p8 pw = some v) :
    w ≠ .noise := fun hnoise => by
  rw [(wave_eq_none w p8 pw).mpr hnoise] at h
  cases h

/-- `exec_cases` with the commands that only answer taken together: NOP, a tone and a held sample. -/
theorem exec_effects {i : Instr} {s t : State} (h : exec i s = .next t) :
    (∃ v p, (i = .nop ∨ ∃ c phase pw, i = .sample c phase pw) ∧ refreshes i s = false ∧ t = s.respond v p false) ∨
    (∃ c phase pw, i = .sample c phase pw ∧ refreshes i s = true ∧ t = s.noiseRefresh c phase) ∨
    (∃ c w, w ≠ .noise ∧ i = selCommand w c ∧ t = s.select c w) ∨
    (∃ c, i = .selNoise c ∧ t = (s.reseedOnSwitch c).select c .noise) ∨
    (∃ c, i = .chrst c ∧ t = ((s.writeLatch c 0#8).writeWsel c .tri).respond 0#8 0#16 false) := by
  obtain ⟨rfl, rfl⟩ | ⟨c, phase, pw, v, rfl, hw, rfl⟩ | ⟨c, phase, pw, rfl, -, hd, rfl⟩ |
    ⟨c, phase, pw, rfl, hw, hd, rfl⟩ | hsel | hnoise | hchrst := exec_cases h
  · exact .inl ⟨_, _, .inl rfl, rfl, rfl⟩
  · exact .inl ⟨_, _, .inr ⟨c, phase, pw, rfl⟩, by simp [refreshes, ne_noise_of_wave hw], rfl⟩
  · exact .inl ⟨_, _, .inr ⟨c, phase, pw, rfl⟩, by simp [refreshes, hd], rfl⟩
  · exact .inr (.inl ⟨c, phase, pw, rfl, by simp [refreshes, hw, hd], rfl⟩)
  · exact .inr (.inr (.inl hsel))
  · exact .inr (.inr (.inr (.inl hnoise)))
  · exact .inr (.inr (.inr (.inr hchrst)))

/-- Every command's response is valid and reports no error, and its refresh bit tells whether the LFSR stepped. -/
theorem exec_rsp {i : Instr} {s t : State} (h : exec i s = .next t) :
    ∃ v p, t.rsp = Response.answer v p (refreshes i s) := by
  obtain ⟨v, p, -, hr, rfl⟩ | ⟨c, phase, pw, -, hr, rfl⟩ | ⟨c, w, -, rfl, rfl⟩ | ⟨c, rfl, rfl⟩ | ⟨c, rfl, rfl⟩ :=
    exec_effects h
  · exact ⟨v, p, by rw [hr, State.respond_rsp]⟩
  · exact ⟨_, _, by rw [hr, State.noiseRefresh_rsp]⟩
  · exact ⟨_, _, by rw [refreshes_selCommand]; rfl⟩
  · exact ⟨_, _, rfl⟩
  · exact ⟨_, _, rfl⟩

/-- The writers of `lfsr` among the commands (10_state.md R12). -/
theorem exec_lfsr {i : Instr} {s t : State} (h : exec i s = .next t) :
    t.lfsr =
      if refreshes i s then lfsrStep s.lfsr else if switchesOntoNoise i s then Config.lfsrSeed else s.lfsr := by
  obtain ⟨v, p, hi, hr, rfl⟩ | ⟨c, phase, pw, -, hr, rfl⟩ | ⟨c, w, hw, rfl, rfl⟩ | ⟨c, rfl, rfl⟩ | ⟨c, rfl, rfl⟩ :=
    exec_effects h
  · have hswitch : switchesOntoNoise i s = false := by obtain rfl | ⟨c, phase, pw, rfl⟩ := hi <;> rfl
    rw [hr, hswitch]
    rfl
  · rw [hr]
    rfl
  · rw [refreshes_selCommand, switchesOntoNoise_selCommand hw]
    rfl
  · rw [State.select_lfsr, State.reseedOnSwitch_lfsr]
    by_cases hnoise : s.readWsel c = .noise <;> simp [refreshes, switchesOntoNoise, hnoise]
  · rfl

/-- The writers of `latch[d]` among the commands (10_state.md R13). -/
theorem exec_readLatch {i : Instr} {s t : State} (h : exec i s = .next t) (d : Channel)
    (hne : t.readLatch d ≠ s.readLatch d) :
    (i = .chrst d ∧ t.readLatch d = 0#8) ∨
      ∃ phase pw, i = .sample d phase pw ∧ refreshes i s = true ∧ t.readLatch d = noiseValue (lfsrStep s.lfsr) := by
  obtain ⟨v, p, -, -, rfl⟩ | ⟨c, phase, pw, rfl, hr, rfl⟩ | ⟨c, w, -, -, rfl⟩ | ⟨c, -, rfl⟩ | ⟨c, rfl, rfl⟩ :=
    exec_effects h
  case inr.inl =>
    rw [State.noiseRefresh_readLatch] at hne ⊢
    obtain rfl : c = d := by_contra fun hcd => hne (if_neg hcd)
    exact .inr ⟨phase, pw, rfl, hr, if_pos rfl⟩
  case inr.inr.inr.inr =>
    rw [State.readLatch_respond, State.readLatch_writeWsel, State.readLatch_writeLatch] at hne ⊢
    obtain rfl : c = d := by_contra fun hcd => hne (if_neg hcd)
    exact .inl ⟨rfl, if_pos rfl⟩
  all_goals exact absurd (by simp) hne

/-- What a command makes of `wsel[d]` (10_state.md R14). -/
def selectorAfter (i : Instr) (d : Channel) (old : Waveform) : Waveform :=
  match i with
  | .nop => old
  | .sample _ _ _ => old
  | .selTri c => if c = d then .tri else old
  | .selPulse c => if c = d then .pulse else old
  | .selSaw c => if c = d then .saw else old
  | .selNoise c => if c = d then .noise else old
  | .chrst c => if c = d then .tri else old

theorem selectorAfter_selCommand (w : Waveform) (c d : Channel) (old : Waveform) :
    selectorAfter (selCommand w c) d old = if c = d then w else old := by
  cases w <;> rfl

@[simp] theorem State.readWsel_reseedOnSwitch (s : State) (c d : Channel) :
    (s.reseedOnSwitch c).readWsel d = s.readWsel d := by
  rw [State.reseedOnSwitch_eq, State.readWsel_writeLfsr]

theorem exec_readWsel {i : Instr} {s t : State} (h : exec i s = .next t) (d : Channel) :
    t.readWsel d = selectorAfter i d (s.readWsel d) := by
  obtain ⟨v, p, hi, -, rfl⟩ | ⟨c, phase, pw, rfl, -, rfl⟩ | ⟨c, w, -, rfl, rfl⟩ | ⟨c, rfl, rfl⟩ | ⟨c, rfl, rfl⟩ :=
    exec_effects h
  · obtain rfl | ⟨c, phase, pw, rfl⟩ := hi <;> rfl
  · rfl
  · rw [selectorAfter_selCommand, State.readWsel_select]
  · rw [State.readWsel_select, State.readWsel_reseedOnSwitch]
    rfl
  · rw [State.readWsel_respond, State.readWsel_writeWsel]
    rfl

/-! ### Everything a step can do, by the command it executes -/

@[simp] theorem State.takeEdge_lfsr (s : State) : s.takeEdge.2.lfsr = s.lfsr := by
  rw [State.takeEdge_state, State.withInputs_lfsr]

@[simp] theorem State.readLatch_takeEdge (s : State) (c : Channel) : s.takeEdge.2.readLatch c = s.readLatch c := by
  rw [State.takeEdge_state, State.readLatch_withInputs]

@[simp] theorem State.readWsel_takeEdge (s : State) (c : Channel) : s.takeEdge.2.readWsel c = s.readWsel c := by
  rw [State.takeEdge_state, State.readWsel_withInputs]

@[simp] theorem refreshes_takeEdge (i : Instr) (s : State) : refreshes i s.takeEdge.2 = refreshes i s := by
  cases i <;> simp [refreshes]

@[simp] theorem switchesOntoNoise_takeEdge (i : Instr) (s : State) :
    switchesOntoNoise i s.takeEdge.2 = switchesOntoNoise i s := by
  cases i <;> simp [switchesOntoNoise]

theorem Edge.executes?_of_rst {e : Edge} (h : e.rst = true) : e.executes? = none := if_pos h

theorem Edge.executes?_of_command {e : Edge} {i : Instr} (hr : e.rst = false) (hv : e.cmdValid = true)
    (hd : decode e.cmd = .command i) : e.executes? = some i := by
  simp [Edge.executes?, hr, hv, hd]

theorem Edge.executes?_of_illegal {e : Edge} {why : Illegal} (hd : decode e.cmd = .illegal why) :
    e.executes? = none := by
  simp [Edge.executes?, hd]

theorem Edge.executes?_of_not_cmdValid {e : Edge} (hv : e.cmdValid = false) : e.executes? = none := by
  simp [Edge.executes?, hv]

/-- `clockEdge_cases` by `executes?`: reset, a command, or an edge that changes no more than `err` and the response. -/
theorem clockEdge_executes {e : Edge} {s t : State} (h : clockEdge e s = .next t) :
    (e.rst = true ∧ e.executes? = none ∧ t = s.applyReset) ∨
    (∃ i, e.rst = false ∧ e.executes? = some i ∧ exec i s = .next t) ∨
    (e.rst = false ∧ e.executes? = none ∧ (t = s.raiseIllegalCommand ∨ t = s.idle)) := by
  obtain ⟨hr, ht⟩ | ⟨i, hr, hv, hd, hexec⟩ | ⟨why, hr, -, hd, ht⟩ | ⟨hr, hv, ht⟩ := clockEdge_cases h
  · exact .inl ⟨hr, Edge.executes?_of_rst hr, ht⟩
  · exact .inr (.inl ⟨i, hr, Edge.executes?_of_command hr hv hd, hexec⟩)
  · exact .inr (.inr ⟨hr, Edge.executes?_of_illegal hd, .inl ht⟩)
  · exact .inr (.inr ⟨hr, Edge.executes?_of_not_cmdValid hv, .inr ht⟩)

/-- `clockEdge_executes` for the edge a step takes from the ports. -/
theorem step_executes {s t : State} (h : step s = .next t) :
    (s.takeEdge.1.rst = true ∧ s.takeEdge.1.executes? = none ∧ t = s.takeEdge.2.applyReset) ∨
    (∃ i, s.takeEdge.1.rst = false ∧ s.takeEdge.1.executes? = some i ∧ exec i s.takeEdge.2 = .next t) ∨
    (s.takeEdge.1.rst = false ∧ s.takeEdge.1.executes? = none ∧
      (t = s.takeEdge.2.raiseIllegalCommand ∨ t = s.takeEdge.2.idle)) :=
  clockEdge_executes h

/-- Settles O40: the commands' writes are `exec_lfsr`, and an edge without a command writes `lfsr` by reset only. -/
theorem lfsrHasThreeWriters : Obligations.LfsrHasThreeWriters := by
  intro s t h
  obtain ⟨hr, -, rfl⟩ | ⟨i, hr, he, hexec⟩ | ⟨hr, he, rfl | rfl⟩ := step_executes h
  · simp [hr]
  · have hlfsr := exec_lfsr hexec
    rw [refreshes_takeEdge, switchesOntoNoise_takeEdge, State.takeEdge_lfsr] at hlfsr
    simp only [hr, he, Bool.false_eq_true, if_false]
    exact hlfsr
  all_goals simp [hr, he]

/-- Settles O41, by `exec_readLatch` and the reset value. -/
theorem latchHasThreeWriters : Obligations.LatchHasThreeWriters := by
  intro s t c h hne
  obtain ⟨hr, -, rfl⟩ | ⟨i, -, he, hexec⟩ | ⟨-, -, rfl | rfl⟩ := step_executes h
  · exact .inl ⟨hr, State.readLatch_applyReset ..⟩
  · rw [← State.readLatch_takeEdge s c] at hne
    obtain ⟨rfl, hzero⟩ | ⟨phase, pw, rfl, hrefresh, hvalue⟩ := exec_readLatch hexec c hne
    · exact .inr (.inl ⟨he, hzero⟩)
    · rw [refreshes_takeEdge, refreshes_sample] at hrefresh
      rw [State.takeEdge_lfsr] at hvalue
      exact .inr (.inr ⟨phase, pw, he, hrefresh.1, hrefresh.2, hvalue⟩)
  all_goals exact absurd (by simp) hne

/-- Settles O42, by `exec_readWsel` for each command. -/
theorem selectorWriters : Obligations.SelectorWriters := by
  intro s t c h
  obtain ⟨hr, -, rfl⟩ | ⟨i, hr, he, hexec⟩ | ⟨hr, he, rfl | rfl⟩ := step_executes h
  · simp [hr]
  · rw [exec_readWsel hexec, State.readWsel_takeEdge]
    simp only [hr, he, Bool.false_eq_true, if_false]
    cases i <;> rfl
  all_goals simp [hr, he]

/-- Settles O44: the refresh bit by `exec_rsp`, the LFSR by `exec_lfsr`; no other edge shows a refresh. -/
theorem refreshBitMarksTheLfsrStep : Obligations.RefreshBitMarksTheLfsrStep := by
  intro s t h
  obtain ⟨-, he, rfl⟩ | ⟨i, -, he, hexec⟩ | ⟨-, he, rfl | rfl⟩ := step_executes h
  case inr.inl =>
    obtain ⟨v, p, hrsp⟩ := exec_rsp hexec
    have hbit : t.rsp.refresh = refreshes i s := by rw [hrsp, refreshes_takeEdge]; rfl
    refine ⟨by simp [hbit, he], fun hrefresh => ?_⟩
    rw [exec_lfsr hexec, refreshes_takeEdge, ← hbit, if_pos hrefresh, State.takeEdge_lfsr]
  all_goals simp [he, Response.quiet, Response.illegal]

/-! ### The invariant -/

theorem latchInRange_iff (v : Sample) : latchInRange v = true ↔ -64 ≤ v.toInt ∧ v.toInt ≤ 63 := decide_eq_true_iff

theorem latchInRange_noiseValue (l : Lfsr) : latchInRange (noiseValue l) = true :=
  (latchInRange_iff _).mpr (noiseValue_bounds l)

theorem latchInRange_zero : latchInRange 0#8 = true := by decide

/-- Settles O39: the seed is not zero and every latch is 0. -/
theorem resetMeetsInv : Obligations.ResetMeetsInv :=
  ⟨lfsrSeed_ne_zero, fun c => by rw [State.readLatch_reset]; exact latchInRange_zero⟩

/-- A non-zero LFSR stays so: a command leaves it, steps it, or gives it the seed. -/
theorem exec_lfsr_ne_zero {i : Instr} {s t : State} (h : exec i s = .next t) (hs : s.lfsr ≠ 0#16) : t.lfsr ≠ 0#16 := by
  rw [exec_lfsr h]
  split
  · exact lfsrStep_ne_zero hs
  · split
    · exact lfsrSeed_ne_zero
    · exact hs

theorem exec_keeps_inv {i : Instr} {s t : State} (h : exec i s = .next t) (hs : s.Inv) : t.Inv := by
  obtain ⟨hlfsr, hlatch⟩ := hs
  refine ⟨exec_lfsr_ne_zero h hlfsr, fun c => ?_⟩
  by_cases hsame : t.readLatch c = s.readLatch c
  · rw [hsame]
    exact hlatch c
  · obtain ⟨-, hzero⟩ | ⟨_, _, -, -, hvalue⟩ := exec_readLatch h c hsame
    · rw [hzero]
      exact latchInRange_zero
    · rw [hvalue]
      exact latchInRange_noiseValue _

/-- Reset gives the reset state's fields, a command keeps the invariant, and no other edge writes what it speaks of. -/
theorem clockEdge_keeps_inv {e : Edge} {s t : State} (h : clockEdge e s = .next t) (hs : s.Inv) : t.Inv := by
  obtain ⟨-, -, rfl⟩ | ⟨i, -, -, hexec⟩ | ⟨-, -, rfl | rfl⟩ := clockEdge_executes h
  · exact resetMeetsInv
  · exact exec_keeps_inv hexec hs
  · exact hs
  · exact hs

/-- Settles O38: a step is one edge, and taking it from the ports touches neither the LFSR nor a latch. -/
theorem stepKeepsInv : Obligations.StepKeepsInv := by
  intro s t hs h
  have taken : s.takeEdge.2.Inv := by
    rw [State.takeEdge_state]
    exact hs
  exact clockEdge_keeps_inv h taken

/-! ### Channels -/

/-- A command that names channel `c` is one of these. -/
theorem channelOf?_cases {i : Instr} {c : Channel} (h : channelOf? i = some c) :
    (∃ phase pw, i = .sample c phase pw) ∨ (∃ w, i = selCommand w c) ∨ i = .chrst c := by
  cases i with
  | nop => cases h
  | sample d phase pw => cases h; exact .inl ⟨phase, pw, rfl⟩
  | selTri d => cases h; exact .inr (.inl ⟨.tri, rfl⟩)
  | selPulse d => cases h; exact .inr (.inl ⟨.pulse, rfl⟩)
  | selSaw d => cases h; exact .inr (.inl ⟨.saw, rfl⟩)
  | selNoise d => cases h; exact .inr (.inl ⟨.noise, rfl⟩)
  | chrst d => cases h; exact .inr (.inr rfl)

/-- A command on channel `c` leaves the latch of every other channel alone. -/
theorem exec_readLatch_of_ne {i : Instr} {c d : Channel} {s t : State} (hc : channelOf? i = some c)
    (h : exec i s = .next t) (hd : d ≠ c) : t.readLatch d = s.readLatch d := by
  by_contra hne
  obtain ⟨rfl, -⟩ | ⟨phase, pw, rfl, -, -⟩ := exec_readLatch h d hne
  all_goals exact hd (Option.some.inj hc)

theorem selectorAfter_of_ne {i : Instr} {c d : Channel} (hc : channelOf? i = some c) (hd : d ≠ c) (old : Waveform) :
    selectorAfter i d old = old := by
  obtain ⟨phase, pw, rfl⟩ | ⟨w, rfl⟩ | rfl := channelOf?_cases hc
  · rfl
  · rw [selectorAfter_selCommand, if_neg hd.symm]
  · exact if_neg hd.symm

theorem refreshes_congr {i : Instr} {c : Channel} {s₁ s₂ : State} (hc : channelOf? i = some c)
    (hw : s₁.readWsel c = s₂.readWsel c) : refreshes i s₁ = refreshes i s₂ := by
  obtain ⟨phase, pw, rfl⟩ | ⟨w, rfl⟩ | rfl := channelOf?_cases hc
  · rw [refreshes, refreshes, hw]
  · rw [refreshes_selCommand, refreshes_selCommand]
  · rfl

theorem switchesOntoNoise_congr {i : Instr} {c : Channel} {s₁ s₂ : State} (hc : channelOf? i = some c)
    (hw : s₁.readWsel c = s₂.readWsel c) : switchesOntoNoise i s₁ = switchesOntoNoise i s₂ := by
  obtain ⟨phase, pw, rfl⟩ | ⟨w, rfl⟩ | rfl := channelOf?_cases hc
  · rfl
  · cases w <;> simp [switchesOntoNoise, selCommand, hw]
  · rfl

/-- A SEL form writes no latch. -/
theorem exec_selCommand_readLatch {w : Waveform} {c : Channel} {s t : State} (h : exec (selCommand w c) s = .next t)
    (d : Channel) : t.readLatch d = s.readLatch d := by
  by_contra hne
  obtain ⟨hi, -⟩ | ⟨phase, pw, hi, -, -⟩ := exec_readLatch h d hne
  all_goals cases w <;> cases hi

/-- What a SAMPLE answers and latches is decided by its channel's latch and selector and by the LFSR. -/
theorem exec_sample_congr {c : Channel} {phase : Phase} {pw : PulseWidth} {s₁ s₂ t₁ t₂ : State}
    (hlfsr : s₁.lfsr = s₂.lfsr) (hlatch : s₁.readLatch c = s₂.readLatch c) (hwsel : s₁.readWsel c = s₂.readWsel c)
    (h₁ : exec (.sample c phase pw) s₁ = .next t₁) (h₂ : exec (.sample c phase pw) s₂ = .next t₂) :
    t₁.rsp = t₂.rsp ∧ t₁.readLatch c = t₂.readLatch c := by
  by_cases hnoise : s₁.readWsel c = .noise
  · rcases Nat.lt_or_ge phase.toNat 0x4000 with hphase | hphase
    · rw [exec_sample_below_quarter hnoise hphase] at h₁
      rw [exec_sample_below_quarter (hwsel ▸ hnoise) hphase] at h₂
      cases h₁
      cases h₂
      exact ⟨congrArg (Response.answer · phase false) hlatch, hlatch⟩
    · rw [exec_sample_at_quarter hnoise hphase] at h₁
      rw [exec_sample_at_quarter (hwsel ▸ hnoise) hphase] at h₂
      cases h₁
      cases h₂
      rw [State.noiseRefresh_rsp, State.noiseRefresh_rsp, State.noiseRefresh_readLatch, State.noiseRefresh_readLatch,
        if_pos rfl, if_pos rfl, hlfsr]
      exact ⟨rfl, rfl⟩
  · obtain ⟨v, hv⟩ := exists_wave hnoise (wavePhase phase) pw
    rw [exec_sample_tone hv] at h₁
    rw [exec_sample_tone (hwsel ▸ hv)] at h₂
    cases h₁
    cases h₂
    exact ⟨rfl, hlatch⟩

/-- What a command on channel `c` answers and latches there is decided by entry `c` and the LFSR. -/
theorem exec_congr {i : Instr} {c : Channel} {s₁ s₂ t₁ t₂ : State} (hc : channelOf? i = some c)
    (hlfsr : s₁.lfsr = s₂.lfsr) (hlatch : s₁.readLatch c = s₂.readLatch c) (hwsel : s₁.readWsel c = s₂.readWsel c)
    (h₁ : exec i s₁ = .next t₁) (h₂ : exec i s₂ = .next t₂) :
    t₁.rsp = t₂.rsp ∧ t₁.readLatch c = t₂.readLatch c := by
  obtain ⟨phase, pw, rfl⟩ | ⟨w, rfl⟩ | rfl := channelOf?_cases hc
  · exact exec_sample_congr hlfsr hlatch hwsel h₁ h₂
  · have other : ∀ d phase pw, selCommand w c ≠ .sample d phase pw := by cases w <;> simp [selCommand]
    rw [exec_rsp_of_not_sample h₁ other, exec_rsp_of_not_sample h₂ other, exec_selCommand_readLatch h₁,
      exec_selCommand_readLatch h₂]
    exact ⟨rfl, hlatch⟩
  · cases h₁
    cases h₂
    simp

/-- Settles O45: the frame by the writers of the two files, the dependence by `exec_congr` and the writers' values. -/
theorem channelsAreIndependent : Obligations.ChannelsAreIndependent := by
  refine fun i c hc => ⟨fun s t d h hd => ?frame, fun s₁ s₂ t₁ t₂ hlfsr hlatch hwsel h₁ h₂ => ?dependence⟩
  case frame =>
    exact ⟨exec_readLatch_of_ne hc h hd, by rw [exec_readWsel h, selectorAfter_of_ne hc hd]⟩
  case dependence =>
    obtain ⟨hrsp, hread⟩ := exec_congr hc hlfsr hlatch hwsel h₁ h₂
    refine ⟨hrsp, ?_, hread, ?_⟩
    · rw [exec_lfsr h₁, exec_lfsr h₂, refreshes_congr hc hwsel, switchesOntoNoise_congr hc hwsel, hlfsr]
    · rw [exec_readWsel h₁, exec_readWsel h₂, hwsel]

/-! ### Repeated and successive SAMPLEs -/

/-- A SAMPLE that only answered finds the state as it was, and answers the same again. -/
theorem exec_sample_quiet_again {c : Channel} {phase : Phase} {pw : PulseWidth} {s : State}
    (h : refreshes (.sample c phase pw) s = false) :
    ∃ v, exec (.sample c phase pw) s = .next (s.respond v phase false) ∧
      exec (.sample c phase pw) (s.respond v phase false) = .next (s.respond v phase false) := by
  rw [← Bool.not_eq_true, refreshes_sample, not_and, not_le] at h
  by_cases hnoise : s.readWsel c = .noise
  · exact ⟨_, exec_sample_below_quarter hnoise (h hnoise) pw, exec_sample_below_quarter hnoise (h hnoise) pw⟩
  · obtain ⟨i, hi⟩ := exists_wave hnoise (wavePhase phase) pw
    exact ⟨_, exec_sample_tone hi, exec_sample_tone hi⟩

/-- A non-zero LFSR never steps to itself: its period is not 1. -/
theorem lfsrStep_ne_self {l : Lfsr} (h : l ≠ 0#16) : lfsrStep l ≠ l := by
  obtain ⟨-, least, -⟩ := lfsrHasFullPeriod l h
  exact least 1 (by decide) (by decide)

/-- Settles O46: a quiet SAMPLE repeats itself, and a refresh leaves the channel NOISE, so the next one refreshes. -/
theorem onlyARefreshIsNotIdempotent : Obligations.OnlyARefreshIsNotIdempotent := by
  refine fun c phase pw s => ⟨fun h => ?quiet, fun h => ?refresh⟩
  case quiet =>
    obtain ⟨v, first, second⟩ := exec_sample_quiet_again h
    exact ⟨_, first, second, rfl⟩
  case refresh =>
    refine ⟨_, _, exec_sample_refresh h, exec_sample_refresh h, rfl, rfl, fun hne => ?_⟩
    exact lfsrStep_ne_self (lfsrStep_ne_zero hne)

/-- Settles O49: the first refresh leaves the LFSR stepped and every selector as it was. -/
theorem sharedLfsrServesInOrder : Obligations.SharedLfsrServesInOrder := by
  intro a b p q v w s _ ha hb hp hq
  have still : (s.noiseRefresh a p).readWsel b = .noise := hb
  exact ⟨_, _, exec_sample_at_quarter ha hp v, exec_sample_at_quarter still hq w, rfl, rfl, rfl⟩

/-- Settles O50: the switch gives the LFSR the seed and leaves channel `b` NOISE. -/
theorem reseedReachesEveryNoiseChannel : Obligations.ReseedReachesEveryNoiseChannel := by
  intro a b p v s ha hb hp
  have still : ((s.writeLfsr Config.lfsrSeed).select a .noise).readWsel b = .noise := by simp [hb]
  exact ⟨_, _, exec_selNoise_of_ne ha, exec_sample_at_quarter still hp v, rfl, rfl⟩

/-! ### The responses -/

theorem step_next (s : State) : ∃ t, step s = .next t := clockEdge_next _ _

/-- Settles O36: the response by `exec_rsp`, and that neither `err` nor the ports' edges are a command's to write. -/
theorem noCommandFails : Obligations.NoCommandFails := by
  refine ⟨fun i s => ?_, step_next⟩
  obtain ⟨t, h⟩ := exec_next i s
  obtain ⟨v, p, hrsp⟩ := exec_rsp h
  exact ⟨t, h, exec_err h, exec_inputs h, by rw [hrsp]; rfl, by rw [hrsp]; rfl⟩

/-- Settles O37: the zeros by `exec_rsp_of_not_sample`; SAMPLE's row by its three cases. -/
theorem responsesFollowTheTable : Obligations.ResponsesFollowTheTable := by
  refine ⟨fun i s t h hi => exec_rsp_of_not_sample h hi, fun c phase pw s => ?sample, fun w why s h => ?illegal⟩
  case sample =>
    by_cases hnoise : s.readWsel c = .noise
    · rcases Nat.lt_or_ge phase.toNat 0x4000 with hphase | hphase
      · refine ⟨_, exec_sample_below_quarter hnoise hphase pw, rfl, absurd hnoise, fun _ => ⟨rfl, ?_⟩, ?_, rfl⟩
        · rw [if_pos hphase]
          rfl
        · exact ⟨fun h => (Bool.false_ne_true h).elim, fun ⟨_, habove⟩ => by omega⟩
      · refine ⟨_, exec_sample_at_quarter hnoise hphase pw, rfl, absurd hnoise, fun _ => ⟨?_, ?_⟩, ?_, rfl⟩
        · rw [State.noiseRefresh_readLatch, if_pos rfl]
          rfl
        · rw [if_neg (by omega)]
          rfl
        · exact ⟨fun _ => ⟨hnoise, hphase⟩, fun _ => rfl⟩
    · obtain ⟨v, hv⟩ := exists_wave hnoise (wavePhase phase) pw
      refine ⟨_, exec_sample_tone hv, rfl, fun _ => ⟨v, hv, bits8_wave hv, rfl⟩, fun h => absurd h hnoise, ?_, rfl⟩
      exact ⟨fun h => (Bool.false_ne_true h).elim, fun ⟨hn, _⟩ => absurd hn hnoise⟩
  case illegal => exact ⟨_, acceptWord_of_illegal h s, rfl⟩

/-! ### The steps at the ports -/

theorem clockEdge_of_command {e : Edge} {i : Instr} (hr : e.rst = false) (hv : e.cmdValid = true)
    (hd : decode e.cmd = .command i) (s : State) : clockEdge e s = exec i s := by
  simp [clockEdge, acceptWord, hr, hv, hd]

theorem clockEdge_of_illegal {e : Edge} {why : Illegal} (hr : e.rst = false) (hv : e.cmdValid = true)
    (hd : decode e.cmd = .illegal why) (s : State) : clockEdge e s = .next s.raiseIllegalCommand := by
  simp [clockEdge, acceptWord, hr, hv, hd]

theorem clockEdge_of_idle {e : Edge} (hr : e.rst = false) (hv : e.cmdValid = false) (s : State) :
    clockEdge e s = .next s.idle := by
  simp [clockEdge, hr, hv]

/-- An edge that carries a command's word runs the command. -/
theorem clockEdge_encode (i : Instr) (s : State) : clockEdge (Edge.command (encode i)) s = exec i s :=
  clockEdge_of_command rfl rfl (decode_encode i) s

theorem decode_of_decodeTableWord {w : Nat} {i : Instr} (h : decodeTableWord 32 w = some i) :
    decode (tableWord 32 w) = .command i := by
  rw [decodeTableWord, if_pos (Nat.le_refl 32)] at h
  cases hd : decode (tableWord 32 w) with
  | command j =>
    rw [hd] at h
    cases h
    rfl
  | illegal why =>
    rw [hd] at h
    cases h

/-- Settles O10: the step takes its edge and does what it does. -/
theorem stepRunsTheDecodedCommand : Obligations.StepRunsTheDecodedCommand := by
  refine ⟨fun s e es i hin hr hv hd _ => ?ports, fun s w i h => ?fetch⟩
  case ports =>
    rw [step_of_inputs hin, clockEdge_of_command hr hv hd]
    rfl
  case fetch =>
    rw [State.withFetchWord, step_withInputs_cons]
    exact clockEdge_of_command rfl rfl (decode_of_decodeTableWord h) s

/-- Settles O11: the exception is the whole effect, and the step after it takes the next edge as ever. -/
theorem illegalWordOnlySetsErr : Obligations.IllegalWordOnlySetsErr := by
  intro s e es why hin hr hv hd
  refine ⟨(s.withInputs es).raiseIllegalCommand, ?_, rfl, rfl, rfl, fun i rest hes => ?goesOn⟩
  · rw [step_of_inputs hin, clockEdge_of_illegal hr hv hd]
  case goesOn =>
    rw [step_of_inputs (e := Edge.command (encode i)) (es := rest) hes, clockEdge_encode]
    rfl

/-- The response after an edge is valid exactly when a word was accepted at it. -/
theorem clockEdge_rsp_valid {e : Edge} {s t : State} (h : clockEdge e s = .next t) :
    t.rsp.valid = true ↔ e.rst = false ∧ e.cmdValid = true := by
  obtain ⟨hr, rfl⟩ | ⟨i, hr, hv, -, hexec⟩ | ⟨why, hr, hv, -, rfl⟩ | ⟨hr, hv, rfl⟩ := clockEdge_cases h
  · simp [hr, Response.quiet]
  · obtain ⟨v, p, hrsp⟩ := exec_rsp hexec
    simp [hr, hv, hrsp, Response.answer]
  · simp [hr, hv, Response.illegal]
  · simp [hr, hv, Response.quiet]

theorem clockEdge_inputs {e : Edge} {s t : State} (h : clockEdge e s = .next t) : t.inputs = s.inputs := by
  obtain ⟨-, -, rfl⟩ | ⟨i, -, -, hexec⟩ | ⟨-, -, rfl | rfl⟩ := clockEdge_executes h
  · rfl
  · exact exec_inputs hexec
  · rfl
  · rfl

/-- Settles O12: an edge always has a next state, and no edge writes the ports' coming edges. -/
theorem everyEdgeIsOneStep : Obligations.EveryEdgeIsOneStep := by
  refine ⟨fun s e es hin => ?_, fun s e es hin hr hv => ?_⟩
  · obtain ⟨t, h⟩ := clockEdge_next e (s.withInputs es)
    exact ⟨t, by rw [step_of_inputs hin, h], clockEdge_inputs h, clockEdge_rsp_valid h⟩
  · rw [step_of_inputs hin, clockEdge_of_idle hr hv]
    rfl

/-! ### Power-on -/

/-- Edges with neither reset nor command pass before the first reset. -/
theorem powerOn_append {pre : List Edge} (h : ∀ e ∈ pre, e.rst = false ∧ e.cmdValid = false) (rest : List Edge) :
    powerOn (pre ++ rest) = powerOn rest := by
  induction pre with
  | nil => rfl
  | cons e pre ih =>
    obtain ⟨⟨hr, hv⟩, hpre⟩ := List.forall_mem_cons.mp h
    rw [← ih hpre, List.cons_append, powerOn, hr, hv]
    rfl

/-- Settles O17: the edges before pass (`powerOn_append`), and the next one decides. -/
theorem powerOnWaitsForAReset : Obligations.PowerOnWaitsForAReset := by
  refine fun pre h => ⟨?_, fun v w es => powerOn_append h _, fun w es => powerOn_append h _⟩
  rw [← List.append_nil pre, powerOn_append h]
  rfl

end Sys2Proof.Machine
end

section
/-! PROOFS. Runs over the edges the ports carry: their composition (20_memory.md R30), the flag `err` at their end
(60_exceptions.md R74), and the noise samples in them (40_waveforms.md R58). -/

namespace Sys2Proof.Machine

/-! ### Composition -/

theorem runEdges_withInputs (es fs : List Edge) (s : State) : runEdges es (s.withInputs fs) = runEdges es s := rfl

/-- Settles O47, by induction on the first part: each edge has a next state, from which the run goes on. -/
theorem runsCompose : Obligations.RunsCompose := by
  intro xs ys s
  induction xs generalizing s with
  | nil => exact (runEdges_withInputs ys [] s).symm
  | cons e xs ih =>
    obtain ⟨t, h⟩ := clockEdge_next e s
    rw [List.cons_append, runEdges_cons h, runEdges_cons h, ih]

/-! ### The flag `err` -/

/-- A run without reset completes, with `err` set if it was or if an edge carried an illegal word. -/
theorem runEdges_err {es : List Edge} (hes : ∀ e ∈ es, e.rst = false) (s : State) :
    ∃ t, runEdges es s = .next t ∧ t.err = (s.err || es.any Edge.isIllegal) := by
  induction es generalizing s with
  | nil => exact ⟨_, runEdges_nil s, by simp⟩
  | cons e es ih =>
    obtain ⟨hr, hes⟩ := List.forall_mem_cons.mp hes
    obtain ⟨u, hu⟩ := clockEdge_next e s
    obtain ⟨t, ht, herr⟩ := ih hes u
    refine ⟨t, by rw [runEdges_cons hu, ht], ?_⟩
    rw [herr, clockEdge_err hu, hr, List.any_cons, Bool.not_false, Bool.true_and, Bool.or_assoc]

/-- Settles O48: with `err` clear at the start only an illegal word sets it. -/
theorem errAtTheEndTellsIllegalWords : Obligations.ErrAtTheEndTellsIllegalWords := by
  intro es s hes hs
  obtain ⟨t, ht, herr⟩ := runEdges_err hes s
  refine ⟨t, ht, ?_⟩
  rw [herr, hs, Bool.false_or, List.any_eq_false]
  simp only [Bool.not_eq_true]

/-! ### The noise samples -/

/-- Without reset and SEL.NOISE an edge either refreshes, with the next noise value, or leaves the LFSR alone. -/
theorem clockEdge_noise {e : Edge} {s t : State} (h : clockEdge e s = .next t) (hr : e.rst = false)
    (hsel : ∀ c, e.executes? ≠ some (.selNoise c)) :
    (t.rsp.refresh = true ∧ t.lfsr = lfsrStep s.lfsr ∧ t.rsp.sample = noiseValue (lfsrStep s.lfsr)) ∨
    (t.rsp.refresh = false ∧ t.lfsr = s.lfsr) := by
  obtain ⟨hrst, -, -⟩ | ⟨i, -, he, hexec⟩ | ⟨-, -, rfl | rfl⟩ := clockEdge_executes h
  · rw [hr] at hrst
    cases hrst
  · obtain ⟨v, p, -, -, rfl⟩ | ⟨c, phase, pw, -, -, rfl⟩ | ⟨c, w, -, -, rfl⟩ | ⟨c, rfl, -⟩ | ⟨c, -, rfl⟩ :=
      exec_effects hexec
    case inr.inl => exact .inl ⟨rfl, rfl, rfl⟩
    case inr.inr.inr.inl => exact absurd he (hsel c)
    all_goals exact .inr ⟨rfl, rfl⟩
  · exact .inr ⟨rfl, rfl⟩
  · exact .inr ⟨rfl, rfl⟩

/-- Settles O51, by induction on the edges: a refresh takes the sequence's next value and the rest go on from it. -/
theorem noiseIsTheLfsrSequence : Obligations.NoiseIsTheLfsrSequence := by
  intro es
  induction es with
  | nil => exact fun s _ => ⟨_, runEdges_nil s, rfl, rfl⟩
  | cons e es ih =>
    intro s hes
    obtain ⟨⟨hr, hsel⟩, hes⟩ := List.forall_mem_cons.mp hes
    obtain ⟨u, hu⟩ := clockEdge_next e s
    obtain ⟨t, ht, hlfsr, hsamples⟩ := ih u hes
    refine ⟨t, by rw [runEdges_cons hu, ht], ?_⟩
    rw [replies_cons hu]
    obtain ⟨hrefresh, hstep, hsample⟩ | ⟨hrefresh, hsame⟩ := clockEdge_noise hu hr hsel
    · rw [List.countP_cons_of_pos hrefresh, List.filter_cons_of_pos hrefresh, List.map_cons, hsamples, hsample, hlfsr,
        hstep, List.range_succ_eq_map, List.map_cons, List.map_map]
      exact ⟨rfl, rfl⟩
    · have hrefresh : ¬ u.rsp.refresh = true := by rw [hrefresh]; exact Bool.false_ne_true
      rw [List.countP_cons_of_neg hrefresh, List.filter_cons_of_neg hrefresh, hsamples, hlfsr, hsame]
      exact ⟨rfl, rfl⟩

end Sys2Proof.Machine
end

section
/-! PROOFS. The obliging caller (70_reset_and_hazards.md R86, R87, R89): the order of its ticks, that a tick is the
machine's run over one TICK, and the phases and refreshes of a channel over many ticks (41_commands.md R69, R70). -/

namespace Sys2Proof.Machine

/-! ### The order of a tick -/

/-- A command that is not SAMPLE (70_reset_and_hazards.md R88). -/
def IsOther (i : Instr) : Prop := ∀ c phase pw, i ≠ .sample c phase pw

/-- A whole TICK, or a single other command (70_reset_and_hazards.md R87, R88). -/
def IsBlock (b : List Instr) : Prop :=
  (∃ (p0 p1 p2 p3 : Phase) (w0 w1 w2 w3 : PulseWidth),
    b = [.sample 0 p0 w0, .sample 1 p1 w1, .sample 2 p2 w2, .sample 3 p3 w3]) ∨
  (∃ i : Instr, b = [i] ∧ IsOther i)

theorem keepsTickOrder_other {i : Instr} (hi : IsOther i) (k : Nat) (is : List Instr) :
    keepsTickOrder k (i :: is) = (k == 0 && keepsTickOrder k is) := by
  cases i with
  | sample c phase pw => exact absurd rfl (hi c phase pw)
  | _ => rfl

theorem keepsTickOrder_sample (k : Nat) (c : Channel) (phase : Phase) (pw : PulseWidth) (is : List Instr) :
    keepsTickOrder k (.sample c phase pw :: is) = true ↔ c.val = k ∧ keepsTickOrder ((k + 1) % 4) is = true := by
  rw [keepsTickOrder, Bool.and_eq_true, beq_iff_eq]

/-- Within a tick the next command is the SAMPLE of the channel due. -/
theorem exists_sample_of_keepsTickOrder {k : Channel} (hk : k ≠ 0) {is : List Instr}
    (h : keepsTickOrder k.val is = true) :
    ∃ phase pw rest, is = .sample k phase pw :: rest ∧ keepsTickOrder ((k.val + 1) % 4) rest = true := by
  have hk : ¬ k.val = 0 := fun h0 => hk (Fin.ext h0)
  cases is with
  | nil => simp [keepsTickOrder, hk] at h
  | cons i rest =>
    by_cases hi : IsOther i
    · simp [keepsTickOrder_other hi, hk] at h
    · simp only [IsOther, not_forall, not_not] at hi
      obtain ⟨c, phase, pw, rfl⟩ := hi
      rw [keepsTickOrder_sample] at h
      obtain ⟨hc, hrest⟩ := h
      obtain rfl : c = k := Fin.ext hc
      exact ⟨phase, pw, rest, rfl, hrest⟩

/-- A stream that keeps the order is empty, or begins with a block after which it still keeps it. -/
theorem exists_block_of_keepsTickOrder {i : Instr} {is : List Instr} (h : keepsTickOrder 0 (i :: is) = true) :
    ∃ b rest, IsBlock b ∧ i :: is = b ++ rest ∧ rest.length ≤ is.length ∧ keepsTickOrder 0 rest = true := by
  by_cases hi : IsOther i
  · rw [keepsTickOrder_other hi] at h
    exact ⟨[i], is, .inr ⟨i, rfl, hi⟩, rfl, Nat.le_refl _, by simpa using h⟩
  · simp only [IsOther, not_forall, not_not] at hi
    obtain ⟨c, p0, w0, rfl⟩ := hi
    rw [keepsTickOrder_sample] at h
    obtain ⟨hc, h1⟩ := h
    obtain rfl : c = 0 := Fin.ext hc
    obtain ⟨p1, w1, is1, rfl, h2⟩ := exists_sample_of_keepsTickOrder (k := 1) (by decide) h1
    obtain ⟨p2, w2, is2, rfl, h3⟩ := exists_sample_of_keepsTickOrder (k := 2) (by decide) h2
    obtain ⟨p3, w3, rest, rfl, h4⟩ := exists_sample_of_keepsTickOrder (k := 3) (by decide) h3
    exact ⟨_, rest, .inl ⟨p0, p1, p2, p3, w0, w1, w2, w3, rfl⟩, rfl, by simp; omega, h4⟩

theorem exists_blocks_of_keepsTickOrder : ∀ {is : List Instr}, keepsTickOrder 0 is = true →
    ∃ blocks : List (List Instr), is = blocks.flatten ∧ ∀ b ∈ blocks, IsBlock b
  | [], _ => ⟨[], rfl, by simp⟩
  | i :: is, h => by
    obtain ⟨b, rest, hb, heq, hlen, hrest⟩ := exists_block_of_keepsTickOrder h
    obtain ⟨blocks, rfl, hblocks⟩ := exists_blocks_of_keepsTickOrder hrest
    exact ⟨b :: blocks, by rw [heq, List.flatten_cons], List.forall_mem_cons.mpr ⟨hb, hblocks⟩⟩
termination_by is => is.length
decreasing_by simp; omega

/-- A block ends where the next tick may begin. -/
theorem keepsTickOrder_block {b : List Instr} (hb : IsBlock b) (rest : List Instr) :
    keepsTickOrder 0 (b ++ rest) = keepsTickOrder 0 rest := by
  obtain ⟨p0, p1, p2, p3, w0, w1, w2, w3, rfl⟩ | ⟨i, rfl, hi⟩ := hb
  · rfl
  · exact keepsTickOrder_other hi 0 rest

theorem keepsTickOrder_flatten {blocks : List (List Instr)} (h : ∀ b ∈ blocks, IsBlock b) :
    keepsTickOrder 0 blocks.flatten = true := by
  induction blocks with
  | nil => rfl
  | cons b blocks ih =>
    obtain ⟨hb, hblocks⟩ := List.forall_mem_cons.mp h
    rw [List.flatten_cons, keepsTickOrder_block hb, ih hblocks]

/-- Settles O55: blocks come off the front one by one, and two streams of blocks make one. -/
theorem tickOrderIsWholeTicks : Obligations.TickOrderIsWholeTicks := by
  refine ⟨fun is => ⟨exists_blocks_of_keepsTickOrder, ?_⟩, fun is js his hjs => ?_⟩
  · rintro ⟨blocks, rfl, hblocks⟩
    exact keepsTickOrder_flatten hblocks
  · obtain ⟨bs, rfl, hbs⟩ := exists_blocks_of_keepsTickOrder his
    obtain ⟨cs, rfl, hcs⟩ := exists_blocks_of_keepsTickOrder hjs
    rw [← List.flatten_append]
    exact keepsTickOrder_flatten (List.forall_mem_append.mpr ⟨hbs, hcs⟩)

/-! ### Serving one channel -/

/-- Sending a command runs it, and the ports' coming edges stay. -/
theorem sendCommand_eq_exec (i : Instr) (s : State) : sendCommand i s = exec i s := by
  rw [sendCommand, step_withInputs_cons, clockEdge_encode]
  rfl

/-- The SAMPLE the caller sends for a channel (70_reset_and_hazards.md R86, R89). -/
def Caller.command (k : Caller) (c : Channel) : Instr := .sample c (k.advanced c) (k.width.get c)

theorem Caller.serve_exec (c : Channel) (k : Caller) (s : State) :
    ∃ t, exec (k.command c) s = .next t ∧ Caller.serve c k s = .next (k.store c t.rsp, t) := by
  obtain ⟨t, hsend, hserve⟩ := Caller.serve_next c k s
  exact ⟨t, by rw [← sendCommand_eq_exec]; exact hsend, hserve⟩

theorem Caller.serveAll_cons {c : Channel} {cs : List Channel} {k k' : Caller} {s t : State}
    (h : Caller.serve c k s = .next (k', t)) : Caller.serveAll (c :: cs) k s = Caller.serveAll cs k' t := by
  rw [Caller.serveAll, h]

/-- Storing one channel's response changes no other channel's command. -/
theorem Caller.store_command {c d : Channel} (h : d ≠ c) (k : Caller) (r : Response) :
    (k.store c r).command d = k.command d := by
  simp [Caller.command, Caller.advanced, h.symm]

/-! ### A tick is a run -/

/-- Serving different channels is the run over their commands, with the run's responses heard. -/
theorem Caller.serveAll_run {cs : List Channel} (hcs : cs.Nodup) (k : Caller) (s : State) :
    ∃ k' t, Caller.serveAll cs k s = .next (k', t) ∧
      runEdges ((cs.map k.command).map fun i => Edge.command (encode i)) s = .next (t.withInputs []) ∧
      t.inputs = s.inputs ∧
      k'.heard =
        (cs.zip (replies ((cs.map k.command).map fun i => Edge.command (encode i)) s)).reverse ++ k.heard := by
  induction cs generalizing k s with
  | nil => exact ⟨k, s, rfl, rfl, rfl, rfl⟩
  | cons c cs ih =>
    obtain ⟨hc, hcs⟩ := List.nodup_cons.mp hcs
    obtain ⟨u, hu, hserve⟩ := Caller.serve_exec c k s
    have hedge : clockEdge (Edge.command (encode (k.command c))) s = .next u := by rw [clockEdge_encode, hu]
    have hsame : cs.map (k.store c u.rsp).command = cs.map k.command :=
      List.map_congr_left fun d hd => Caller.store_command (fun hdc : d = c => hc (hdc ▸ hd)) k u.rsp
    obtain ⟨k', t, hall, hrun, hinputs, hheard⟩ := ih hcs (k.store c u.rsp) u
    rw [hsame] at hrun hheard
    refine ⟨k', t, by rw [Caller.serveAll_cons hserve, hall], ?_, by rw [hinputs, exec_inputs hu], ?_⟩
    · rw [List.map_cons, List.map_cons, runEdges_cons hedge, hrun]
    · rw [hheard, List.map_cons, List.map_cons, replies_cons hedge, List.zip_cons_cons, List.reverse_cons,
        List.append_assoc]
      rfl

/-- Settles O56, by `Caller.serveAll_run` over the four channels. -/
theorem callerTickRunsOneWholeTick : Obligations.CallerTickRunsOneWholeTick := by
  rintro k s commands rfl
  exact ⟨rfl, Caller.serveAll_run (cs := [0, 1, 2, 3]) (by decide) k s⟩

/-! ### What a tick makes of a channel -/

/-- The phase the caller stores after sending `p` to a channel with waveform `w` (41_commands.md R61 to R63). -/
def storedPhase (w : Waveform) (p : Phase) : Phase :=
  if w = .noise ∧ 0x4000 ≤ p.toNat then p - 0x4000#16 else p

/-- How often such a SAMPLE refreshes. -/
def refreshCount (w : Waveform) (p : Phase) : Nat := if w = .noise ∧ 0x4000 ≤ p.toNat then 1 else 0

/-- What a SAMPLE answers to the caller. -/
theorem exec_sample_stored {c : Channel} {phase : Phase} {pw : PulseWidth} {s t : State}
    (h : exec (.sample c phase pw) s = .next t) :
    t.rsp.phase = storedPhase (s.readWsel c) phase ∧
      (if t.rsp.refresh = true then 1 else 0) = refreshCount (s.readWsel c) phase := by
  obtain ⟨-, sample, -⟩ := responsesFollowTheTable
  obtain ⟨t', h', -, htone, hnoise, hrefresh, -⟩ := sample c phase pw s
  obtain rfl : t' = t := by rw [h] at h'; cases h'; rfl
  refine ⟨?_, if_congr hrefresh rfl rfl⟩
  by_cases hw : s.readWsel c = .noise
  · obtain ⟨-, hphase⟩ := hnoise hw
    rw [hphase, storedPhase, hw]
    rcases Nat.lt_or_ge phase.toNat 0x4000 with h | h
    · rw [if_pos h, if_neg fun hge => by omega]
    · rw [if_neg (by omega), if_pos ⟨rfl, h⟩]
  · obtain ⟨v, -, -, hphase⟩ := htone hw
    rw [hphase, storedPhase, if_neg fun h => hw h.1]

/-- What serving each of the channels `cs` once makes of the caller's and the machine's side of every channel. -/
structure Served (cs : List Channel) (k k' : Caller) (s t : State) : Prop where
  freq : k'.freq = k.freq
  wsel : ∀ d, t.readWsel d = s.readWsel d
  phase : ∀ d, k'.phase.get d = if d ∈ cs then storedPhase (s.readWsel d) (k.advanced d) else k.phase.get d
  refreshes : ∀ d,
    k'.refreshes d = k.refreshes d + if d ∈ cs then refreshCount (s.readWsel d) (k.advanced d) else 0

theorem Caller.serve_served (c : Channel) (k : Caller) (s : State) :
    ∃ k' t, Caller.serve c k s = .next (k', t) ∧ Served [c] k k' s t := by
  obtain ⟨t, ht, hserve⟩ := Caller.serve_exec c k s
  obtain ⟨hphase, hrefresh⟩ := exec_sample_stored ht
  refine ⟨_, t, hserve, rfl, fun d => exec_readWsel ht d, fun d => ?phase, fun d => ?refreshes⟩
  case phase =>
    simp only [Caller.store_phase, List.mem_singleton]
    by_cases hcd : c = d
    · subst hcd
      rw [if_pos rfl, if_pos rfl, hphase]
    · rw [if_neg hcd, if_neg (Ne.symm hcd)]
  case refreshes =>
    simp only [Caller.store_refreshes, List.mem_singleton]
    by_cases hcd : c = d
    · subst hcd
      simp only [true_and, if_true, hrefresh]
    · rw [if_neg fun h => hcd h.1, if_neg (Ne.symm hcd)]

/-- A channel that has been served is not served again. -/
theorem Served.cons {c : Channel} {cs : List Channel} {k k₁ k' : Caller} {s s₁ t : State} (hc : c ∉ cs)
    (first : Served [c] k k₁ s s₁) (rest : Served cs k₁ k' s₁ t) : Served (c :: cs) k k' s t := by
  have advanced : ∀ d, d ∈ cs → k₁.advanced d = k.advanced d := fun d hd => by
    have hdc : d ∉ [c] := fun h => hc (List.mem_singleton.mp h ▸ hd)
    rw [Caller.advanced, first.phase, if_neg hdc, first.freq, Caller.advanced]
  refine ⟨rest.freq.trans first.freq, fun d => (rest.wsel d).trans (first.wsel d), fun d => ?_, fun d => ?_⟩
  · rw [rest.phase, first.wsel]
    by_cases hd : d ∈ cs
    · rw [if_pos hd, if_pos (List.mem_cons_of_mem c hd), advanced d hd]
    · rw [if_neg hd, first.phase]
      simp [hd]
  · rw [rest.refreshes, first.wsel, first.refreshes]
    by_cases hd : d ∈ cs
    · have hdc : d ∉ [c] := fun h => hc (List.mem_singleton.mp h ▸ hd)
      rw [if_pos hd, if_pos (List.mem_cons_of_mem c hd), advanced d hd, if_neg hdc, Nat.add_zero]
    · simp [hd]

theorem Caller.serveAll_served {cs : List Channel} (hcs : cs.Nodup) (k : Caller) (s : State) :
    ∃ k' t, Caller.serveAll cs k s = .next (k', t) ∧ Served cs k k' s t := by
  induction cs generalizing k s with
  | nil => exact ⟨k, s, rfl, rfl, fun _ => rfl, fun _ => rfl, fun _ => rfl⟩
  | cons c cs ih =>
    obtain ⟨hc, hcs⟩ := List.nodup_cons.mp hcs
    obtain ⟨k₁, s₁, hserve, first⟩ := Caller.serve_served c k s
    obtain ⟨k', t, hall, rest⟩ := ih hcs k₁ s₁
    exact ⟨k', t, by rw [Caller.serveAll_cons hserve, hall], first.cons hc rest⟩

/-- A tick serves every channel once. -/
theorem Caller.tick_served (k : Caller) (s : State) :
    ∃ k' t, Caller.tick k s = .next (k', t) ∧ Served [0, 1, 2, 3] k k' s t :=
  Caller.serveAll_served (by decide) k s

theorem mem_channels (c : Channel) : c ∈ ([0, 1, 2, 3] : List Channel) := by
  revert c
  decide

/-- A channel's phase and refreshes after a tick. -/
theorem Served.channel {k k' : Caller} {s t : State} (h : Served [0, 1, 2, 3] k k' s t) (c : Channel) :
    k'.phase.get c = storedPhase (s.readWsel c) (k.advanced c) ∧
      k'.refreshes c = k.refreshes c + refreshCount (s.readWsel c) (k.advanced c) := by
  rw [h.phase, h.refreshes, if_pos (mem_channels c), if_pos (mem_channels c)]
  exact ⟨rfl, rfl⟩

theorem Caller.ticks_succ {n : Nat} {k k' : Caller} {s t : State} (h : Caller.tick k s = .next (k', t)) :
    Caller.ticks (n + 1) k s = Caller.ticks n k' t := by
  rw [Caller.ticks, h]

/-! ### Ticks of a tone and of a noise channel -/

theorem storedPhase_of_ne {w : Waveform} (hw : w ≠ .noise) (p : Phase) : storedPhase w p = p :=
  if_neg fun h => hw h.1

theorem refreshCount_of_ne {w : Waveform} (hw : w ≠ .noise) (p : Phase) : refreshCount w p = 0 :=
  if_neg fun h => hw h.1

theorem storedPhase_at_quarter {p : Phase} (hp : 0x4000 ≤ p.toNat) : storedPhase .noise p = p - 0x4000#16 :=
  if_pos ⟨rfl, hp⟩

theorem refreshCount_at_quarter {p : Phase} (hp : 0x4000 ≤ p.toNat) : refreshCount .noise p = 1 := if_pos ⟨rfl, hp⟩

theorem storedPhase_below_quarter {p : Phase} (hp : p.toNat < 0x4000) : storedPhase .noise p = p :=
  if_neg fun h => Nat.not_le.mpr hp h.2

theorem refreshCount_below_quarter {p : Phase} (hp : p.toNat < 0x4000) : refreshCount .noise p = 0 :=
  if_neg fun h => Nat.not_le.mpr hp h.2

theorem Caller.toNat_advanced (k : Caller) (c : Channel) :
    (k.advanced c).toNat = ((k.phase.get c).toNat + (k.freq.get c).toNat) % 2 ^ 16 := BitVec.toNat_add ..

/-- Settles O53: one tick by `Served.channel`, at the threshold and below it. -/
theorem noiseTickAtAnyFrequency : Obligations.NoiseTickAtAnyFrequency := by
  intro k s c hw
  obtain ⟨k', t, htick, served⟩ := Caller.tick_served k s
  obtain ⟨hphase, hrefreshes⟩ := served.channel c
  rw [hw, Caller.advanced] at hphase hrefreshes
  refine ⟨k', t, htick, fun hp => ?_, fun hp => ?_⟩
  · rw [hphase, hrefreshes, storedPhase_at_quarter hp, refreshCount_at_quarter hp]
    exact ⟨add_sub_assoc .., rfl⟩
  · rw [hphase, hrefreshes, storedPhase_below_quarter hp, refreshCount_below_quarter hp]
    exact ⟨rfl, rfl⟩

/-- Settles O54, by induction on the ticks: each adds the frequency, modulo 2^16. -/
theorem tonePhaseAfterTicks : Obligations.TonePhaseAfterTicks := by
  intro n
  induction n with
  | zero =>
    intro k s c _
    refine ⟨k, s, rfl, ?_, rfl, rfl⟩
    rw [Nat.zero_mul, Nat.add_zero, Nat.mod_eq_of_lt (k.phase.get c).isLt]
  | succ n ih =>
    intro k s c hw
    obtain ⟨k₁, s₁, htick, served⟩ := Caller.tick_served k s
    obtain ⟨hphase, hrefreshes⟩ := served.channel c
    rw [storedPhase_of_ne hw] at hphase
    rw [refreshCount_of_ne hw] at hrefreshes
    obtain ⟨k', t, hticks, hlast, hcount, hwsel⟩ := ih k₁ s₁ c (by rwa [served.wsel])
    refine ⟨k', t, by rw [Caller.ticks_succ htick, hticks], ?_, by rw [hcount, hrefreshes, Nat.add_zero],
      by rw [hwsel, served.wsel]⟩
    rw [hlast, hphase, served.freq, Caller.toNat_advanced, Nat.mod_add_mod, Nat.succ_mul]
    congr 1
    omega

/-- One tick of a noise channel below the threshold with a frequency below it: the phase it stores is below the
threshold again, and phase and refreshes add up to the advanced phase. -/
theorem noise_tick_pacing {p f : Phase} (hp : p.toNat < 0x4000) (hf : f.toNat < 0x4000) :
    (storedPhase .noise (p + f)).toNat < 0x4000 ∧
      (storedPhase .noise (p + f)).toNat + 0x4000 * refreshCount .noise (p + f) = p.toNat + f.toNat := by
  have hsum : (p + f).toNat = p.toNat + f.toNat := BitVec.toNat_add_of_lt (by omega)
  rcases Nat.lt_or_ge (p + f).toNat 0x4000 with h | h
  · rw [storedPhase_below_quarter h, refreshCount_below_quarter h]
    omega
  · rw [storedPhase_at_quarter h, refreshCount_at_quarter h, toNat_sub_quarter h]
    omega

/-- Settles O52, by induction on the ticks: `noise_tick_pacing` for the first, and what it leaves over for the rest. -/
theorem noisePacing : Obligations.NoisePacing := by
  intro n
  induction n with
  | zero =>
    intro k s c _ hf hp
    have hsum : (k.advanced c).toNat = (k.phase.get c).toNat + (k.freq.get c).toNat :=
      BitVec.toNat_add_of_lt (by omega)
    refine ⟨k, s, rfl, hp, hsum, ?_, ?_⟩ <;> omega
  | succ n ih =>
    intro k s c hw hf hp
    obtain ⟨k₁, s₁, htick, served⟩ := Caller.tick_served k s
    obtain ⟨hphase, hrefreshes⟩ := served.channel c
    rw [hw, Caller.advanced] at hphase hrefreshes
    obtain ⟨hbelow, hpace⟩ := noise_tick_pacing hp hf
    rw [← hphase] at hbelow hpace
    obtain ⟨k', t, hticks, hlast, hadvanced, hleft, hcount⟩ :=
      ih k₁ s₁ c (by rw [served.wsel, hw]) (by rwa [served.freq]) hbelow
    rw [served.freq] at hadvanced hleft hcount
    refine ⟨k', t, by rw [Caller.ticks_succ htick, hticks], hlast, hadvanced, ?_, ?_⟩
    all_goals
      rw [Nat.succ_mul]
      omega

end Sys2Proof.Machine
end
